-- ==== Sys2Proof/Word.lean ====
section
/-! DEFINITION. The word types of SBUSDEC: the widths of 00_scope.md R6 and R8 and 30_encoding.md R71, R73. -/

namespace Sys2Proof

/-- A byte, bits 7..0 (R9). -/
abbrev Byte := BitVec 8

/-- A frame is "a fixed-size sequence of exactly 25 bytes", addressed by byte position 0..24 (R50). -/
abbrev Frame := Vector Byte 25

/-- A byte position of a frame: 0..24, no other exists (R50). -/
abbrev Position := Fin 25

/-- Format S, the step word `R V BBBBBBBB` (R71). -/
abbrev StepWord := BitVec 10

/-- Format X, the index word `ch_idx[7:0]` (R73; IDX_W of R8). -/
abbrev IndexWord := BitVec 8

/-- The assembler counter's width, CNT_W (R8, R22). -/
abbrev Counter := BitVec 5

/-- A raw channel value, RAW_W (R8). -/
abbrev Raw := BitVec 11

/-- A pulse length in microseconds, PULSE_W (R8). -/
abbrev Pulse := BitVec 12

/-- A channel index 0..15 (R6: N_CH = 16). -/
abbrev ChannelIndex := Fin 16

/-- The sixteen pulse lengths in channel order (R124). -/
abbrev Lanes := Vector Pulse 16

end Sys2Proof
end

