-- ==== Sys2Proof/Config.lean ====
section
/-! DEFINITION. What is fixed for the block: the frame constants (R6) and the scaler's elaboration-time parameters (R7). -/

namespace Sys2Proof

/-- START_MARKER (R6). -/
def Config.startMarker : Byte := 0x0F

/-- END_MARKER (R6). -/
def Config.endMarker : Byte := 0x00

/-- FRAME_LEN (R6). -/
def Config.frameLen : Nat := 25

/-- PAYLOAD_FIRST (R6). -/
def Config.payloadFirst : Nat := 1

/-- CH_BITS (R6). -/
def Config.chBits : Nat := 11

/-- CH_MASK (R6). -/
def Config.chMask : Nat := 0x7FF

/-- SCALE_ROUNDING, the rounding of the scaler's shift on negative values (R7, U4). -/
inductive Rounding where
  | floor
  | towardZero
  deriving DecidableEq, Repr

/-- The scaler's parameters with their normative defaults (R7). -/
structure ScaleParams where
  /-- SCALE_OFFSET: the raw value mapped to the centre. -/
  offset : Int := 1024
  /-- SCALE_MUL: the multiplier. -/
  mul : Int := 5
  /-- SCALE_SHIFT: the arithmetic right shift. -/
  shift : Nat := 3
  /-- SCALE_CENTER: the pulse length of raw = SCALE_OFFSET. -/
  center : Int := 1520
  /-- SCALE_ROUNDING: `floor` is the spec's choice (D15). -/
  rounding : Rounding := .floor
  deriving DecidableEq, Repr

/-- This block's scaler parameters: the normative defaults (R7, log 8). -/
def Config.scale : ScaleParams := {}

end Sys2Proof
end

