-- ==== Sys2Proof/Syntax.lean ====
section
/-! DEFINITION. The operations of spec/opcode_table.json, the stimulus that selects them, and the stimulus syntax of
30_encoding.md R82, R83. -/

namespace Sys2Proof

/-- One constructor per row of spec/opcode_table.json. Ignored fields of a step word are kept as operands, so that no
bit of a word is lost; R79 says they have no effect. -/
inductive Instr where
  /-- RESET (R91); `v` and `b` are the ignored `in_valid` and `in_byte`. -/
  | reset (v : Bool) (b : Byte)
  /-- FEED (R90); `b` is the byte fed. -/
  | feed (b : Byte)
  /-- NOP (R92); `b` is the ignored `in_byte`. -/
  | nop (b : Byte)
  /-- GET_CHANNEL (R111) of the 8-bit index `i`, legal when `i ≤ 15` (R78). -/
  | getChannel (i : IndexWord)
  /-- GET_CHANNELS (R124). -/
  | getChannels
  /-- SCALE (R120) of a raw value. -/
  | scale (raw : Raw)
  /-- DRAIN (R100) of a finite byte sequence. -/
  | drain (bytes : List Byte)
  deriving DecidableEq, Repr

/-- What the outside drives or observes next (R84): a step word for one clock edge, an index word on `ch_idx`, or an
observation of all sixteen lanes (the statement GETALL of R82, which has no word). -/
inductive Stimulus where
  | stepWord (w : StepWord)
  | indexWord (w : IndexWord)
  | readPulses
  deriving DecidableEq, Repr

/-- The outputs and state elements a CHECK can name (R82; the ports of R21, the elements of R22 to R26). -/
inductive Observable where
  | asmCnt
  | bufByte (k : Position)
  | frameByte (k : Position)
  | frameOut
  | frameValid
  | frameStrobe
  | chRaw
  | chErr
  | pulseOut
  | pulseLane (i : ChannelIndex)
  deriving DecidableEq, Repr

/-- What a program lists beside the step it follows (R84): a format X word or an observation. None takes an edge (R82). -/
inductive Beside where
  | indexWord (w : IndexWord)
  | readPulses
  | check (name : Observable) (v : Nat)
  deriving DecidableEq, Repr

/-- One item of a program, in program order: a step word, or an item beside it. -/
inductive ProgramItem where
  | stepWord (w : StepWord)
  | beside (o : Beside)
  deriving DecidableEq, Repr

/-- A step word with the items listed beside it (R84). -/
structure EncodedStep where
  word : StepWord
  beside : List Beside
  deriving DecidableEq, Repr

/-- An encoded program (R84): "the list of its step words in order", each with the items that follow it; `atStart` are the
items before the first step, which observe the start state. -/
structure EncodedProgram where
  atStart : List Beside
  steps : List EncodedStep
  deriving DecidableEq, Repr

/-- A statement of the stimulus syntax (R82) or a pseudo-statement (R83). -/
inductive Statement where
  | reset
  | nop
  | feed (b : Byte)
  | getch (i : IndexWord)
  | getall
  | check (name : Observable) (v : Nat)
  | frame (f : Frame)
  | drain (bytes : List Byte)
  | nops (k : Nat)
  | fill (b : Byte) (k : Nat)
  deriving DecidableEq, Repr

end Sys2Proof
end

