-- ==== Sys2Proof/WellFormed.lean ====
section
/-! DEFINITION. Which instructions are legal as encodings (30_encoding.md R78): every format S word is; an index word is
when it is 0..15. An ill-formed GET_CHANNEL still decodes and runs: it raises OutOfRange (R115, log 7). -/

namespace Sys2Proof

/-- Legal encodings: only a channel index can be illegal (R78). -/
def Instr.wellFormed : Instr → Bool
  | .reset _ _ => true
  | .feed _ => true
  | .nop _ => true
  | .getChannel i => decide (i.toNat ≤ 15)
  | .getChannels => true
  | .scale _ => true
  | .drain _ => true

/-- `wellFormed` as a proposition. -/
abbrev Instr.WellFormed (i : Instr) : Prop := i.wellFormed = true

end Sys2Proof
end

