-- ==== Sys2Proof/Decode.lean ====
section
/-! DEFINITION. Decoding of the two input formats (30_encoding.md R70 to R73) and the encoder back to them. -/

namespace Sys2Proof

/-- Why a word laid out as `nbits` bits is no input of SBUSDEC. -/
inductive DecodeError where
  /-- The length is that of neither format (R70: formats S and X only). -/
  | noFormat
  /-- A bit is set above the format's word (R71: 10 bits; R73: 8 bits). -/
  | bitsBeyondFormat
  deriving DecidableEq, Repr

/-- Field R of a step word, bit 9: the port `rst` (R71). -/
def stepR (w : StepWord) : Bool := w.getLsbD 9

/-- Field V of a step word, bit 8: the port `in_valid` (R71). -/
def stepV (w : StepWord) : Bool := w.getLsbD 8

/-- Field B of a step word, bits 7:0: the port `in_byte` (R71, R74). -/
def stepB (w : StepWord) : Byte := w.extractLsb' 0 8

/-- Format S: the operation map of R72 by match and mask. -/
def decodeStep (w : StepWord) : Instr :=
  if w &&& 0x200 = 0x200 then .reset (stepV w) (stepB w)
  else if w &&& 0x300 = 0x100 then .feed (stepB w)
  else .nop (stepB w)

/-- Format X: every index word is a GET_CHANNEL; 16..255 are the illegal ones, which raise OutOfRange (R73, R78). -/
def decodeIndex (w : IndexWord) : Instr := .getChannel w

/-- The operation a stimulus selects. -/
def decode : Stimulus → Instr
  | .stepWord w => decodeStep w
  | .indexWord w => decodeIndex w
  | .readPulses => .getChannels

/-- The stimulus a word of `nbits` bits stands for: up to one byte is format X, up to two bytes format S (log 11). -/
def wordStimulus (nbits w : Nat) : Except DecodeError Stimulus :=
  if nbits = 0 ∨ 16 < nbits then .error .noFormat
  else if nbits ≤ 8 then
    if w < 2 ^ 8 then .ok (.indexWord (BitVec.ofNat 8 w)) else .error .bitsBeyondFormat
  else
    if w < 2 ^ 10 then .ok (.stepWord (BitVec.ofNat 10 w)) else .error .bitsBeyondFormat

/-- Decoding of any word of any length, rejecting by name. -/
def decodeWord (nbits w : Nat) : Except DecodeError Instr :=
  match wordStimulus nbits w with
  | .ok x => .ok (decode x)
  | .error e => .error e

/-- The instruction the decoder reads from a word numbered as spec/opcode_table.json numbers it. -/
def decodeTableWord (nbits w : Nat) : Option Instr :=
  match decodeWord nbits w with
  | .ok i => some i
  | .error _ => none

/-- The step word with R in bit 9, V in bit 8 and B in bits 7:0 (R71, R82). -/
def encodeStep (r v : Bool) (b : Byte) : StepWord :=
  (if r then 0x200 else 0x000) ||| (if v then 0x100 else 0x000) ||| b.setWidth 10

/-- The stimuli that make SBUSDEC perform an instruction. SCALE has none: it "is reached only through GET_CHANNELS"
(R120); DRAIN is one FEED word per byte (R83, R100). -/
def encode : Instr → List Stimulus
  | .reset v b => [.stepWord (encodeStep true v b)]
  | .feed b => [.stepWord (encodeStep false true b)]
  | .nop b => [.stepWord (encodeStep false false b)]
  | .getChannel i => [.indexWord i]
  | .getChannels => [.readPulses]
  | .scale _ => []
  | .drain bytes => bytes.map fun b => .stepWord (encodeStep false true b)

/-- The program items a statement stands for: the words of R82 and the expansions of R83. -/
def Statement.expand : Statement → List ProgramItem
  | .reset => [.stepWord 0x200]
  | .nop => [.stepWord 0x000]
  | .feed b => [.stepWord (encodeStep false true b)]
  | .getch i => [.beside (.indexWord i)]
  | .getall => [.beside .readPulses]
  | .check name v => [.beside (.check name v)]
  | .frame f => f.toList.map fun b => .stepWord (encodeStep false true b)
  | .drain bytes => bytes.map fun b => .stepWord (encodeStep false true b)
  | .nops k => List.replicate k (.stepWord 0x000)
  | .fill b k => List.replicate k (.stepWord (encodeStep false true b))

/-- The items of a program, in order. -/
def assemble (p : List Statement) : List ProgramItem := p.flatMap Statement.expand

/-- The encoding of a program (R84): every item beside the step it follows. -/
def encodeProgram : List ProgramItem → EncodedProgram
  | [] => ⟨[], []⟩
  | .stepWord w :: rest => ⟨[], ⟨w, (encodeProgram rest).atStart⟩ :: (encodeProgram rest).steps⟩
  | .beside o :: rest => ⟨o :: (encodeProgram rest).atStart, (encodeProgram rest).steps⟩

/-- The items an encoded program lists, in order. -/
def EncodedProgram.items (p : EncodedProgram) : List ProgramItem :=
  p.atStart.map .beside ++ p.steps.flatMap fun e => .stepWord e.word :: e.beside.map .beside

/-- What an item drives: a CHECK nothing, since it only "states the value an output or state element has" (R82). -/
def ProgramItem.drives : ProgramItem → Option Stimulus
  | .stepWord w => some (.stepWord w)
  | .beside (.indexWord w) => some (.indexWord w)
  | .beside .readPulses => some .readPulses
  | .beside (.check _ _) => none

/-- The stimuli a program drives, in order. -/
def stimuli (items : List ProgramItem) : List Stimulus := items.filterMap ProgramItem.drives

end Sys2Proof
end

