-- ==== Sys2Proof/Machine/State.lean ====
section
/-! DEFINITION. The state of SBUSDEC (10_state.md R22 to R26), the input level and the pending stimulus it is driven by,
the reasons a step can stop, and the state after reset (R33). -/

namespace Sys2Proof.Machine

/-- What the latest operation returned at the transaction level (R12). The machine never reads it (log 5). -/
inductive Result where
  /-- None: "a quiet 'no frame yet' outcome" (R95); also the result of RESET and NOP (R95, R105). -/
  | noFrame
  /-- `Some(f)`: FEED emitted the frame `f` (R95). -/
  | someFrame (f : Frame)
  /-- The frames a DRAIN yields, in arrival order (R100). -/
  | frames (fs : List Frame)
  /-- The raw value of a GET_CHANNEL (R111). -/
  | raw (v : Raw)
  /-- `OutOfRange(i)`: the error and no value (R141, U3). -/
  | outOfRange (i : IndexWord)
  /-- The sixteen pulse lengths of a GET_CHANNELS (R124). -/
  | pulses (lanes : Lanes)
  /-- The pulse length of a SCALE (R120). -/
  | pulse (p : Pulse)
  deriving DecidableEq, Repr

/-- Why the machine stops with a fault. -/
inductive Fault where
  /-- Raised by every operation but RESET when `cnt` is 25..31, values that are "not reachable from reset" and have no
  meaning (R81): a model that holds a 5-bit `cnt` "faults if it ever holds 25..31" (U2). Safe: the model stops where the
  spec gives no next state (log 4). -/
  | counterUnreachable
  deriving DecidableEq, Repr

/-- Why an instruction has no meaning. -/
inductive Refusal where
  /-- Raised by `exec` for an instruction not modelled yet; no arm raises it now. Safe. -/
  | notModelled (mnemonic : String)
  deriving DecidableEq, Repr

/-- The whole machine. -/
structure State where
  /-- The assembler counter `cnt`: 0 is Idle, n in 1..24 is Collecting(n) (R22). -/
  cnt : Counter
  /-- The working buffer `buf[0..24]` (R23). -/
  buf : Frame
  /-- The frame register `frame[0..24]` (R24). -/
  frame : Frame
  /-- The flag `frame_valid` (R25). -/
  frameValid : Bool
  /-- The flag `frame_strobe` (R26). -/
  frameStrobe : Bool
  /-- The level driven on the input port `ch_idx` (R20, R70; log 6). -/
  chIdx : IndexWord
  /-- What the outside will drive, oldest first: the program of R84 (log 1). -/
  stimulus : List Stimulus
  /-- The model's own record of the latest operation's result (log 5). -/
  result : Result
  deriving DecidableEq, Repr

/-- All 25 bytes `0x00`: the reset value of `frame` (R33, D8). -/
def zeroFrame : Frame := Vector.replicate 25 0x00

/-- The machine right after reset (R33). `buf` is unspecified there (log 3), `chIdx` is an input (log 6), and no program
is loaded (log 11). -/
def State.reset : State where
  cnt := 0
  buf := zeroFrame
  frame := zeroFrame
  frameValid := false
  frameStrobe := false
  chIdx := 0x00
  stimulus := []
  result := .noFrame

end Sys2Proof.Machine
end

