-- ==== Sys2Proof/Machine/Ops.lean ====
section
/-! DEFINITION. The named operations over the state: one update per field, one byte of `buf`, fetching the next stimulus,
and raising OutOfRange, the only error SBUSDEC signals (60_exceptions.md R141; it has no traps, R148). -/

namespace Sys2Proof.Machine

/-- What an operation answers. -/
abbrev Answer := Host.Outcome State Fault Refusal

/-- `cnt <- n`. -/
def State.setCnt (s : State) (n : Counter) : State := { s with cnt := n }

/-- `buf <- f`, all 25 bytes. -/
def State.setBuf (s : State) (f : Frame) : State := { s with buf := f }

/-- `frame <- f`, all 25 bytes at one edge (R59). -/
def State.setFrame (s : State) (f : Frame) : State := { s with frame := f }

/-- `frame_valid <- v`. -/
def State.setFrameValid (s : State) (v : Bool) : State := { s with frameValid := v }

/-- `frame_strobe <- v`. -/
def State.setFrameStrobe (s : State) (v : Bool) : State := { s with frameStrobe := v }

/-- The consumer drives `ch_idx` (R20). -/
def State.setChIdx (s : State) (i : IndexWord) : State := { s with chIdx := i }

/-- What the outside drives from now on. -/
def State.setStimulus (s : State) (xs : List Stimulus) : State := { s with stimulus := xs }

/-- The transaction-level result of an operation (R12). -/
def State.setResult (s : State) (r : Result) : State := { s with result := r }

/-- `buf[k] <- b`: FEED writes one byte of `buf` (R58). -/
def State.writeBuf (s : State) (k : Position) (b : Byte) : State := s.setBuf (s.buf.set k b)

/-- `raise OutOfRange(i)` (R11, R141): the index stands on `ch_idx`, so `ch_err = 1` while it does; nothing is latched and
no state element changes. The result is the error and no value (U3). -/
def State.raiseOutOfRange (s : State) (i : IndexWord) : State := (s.setChIdx i).setResult (.outOfRange i)

/-- An operation's answer in a state whose `cnt` has a meaning. A 5-bit `cnt` that holds 25..31 is the fault of U2 (R81;
log 4); every operation but RESET, which writes constants only (R160), goes through this. -/
def State.whenCounterInRange (s : State) (a : Answer) : Answer :=
  if s.cnt.toNat ≤ 24 then a else .fault .counterUnreachable

/-- The frames a result emits (R95): one for `Some(f)`, the list for a DRAIN, none otherwise. -/
def emitted : Result → List Frame
  | .noFrame => []
  | .someFrame f => [f]
  | .frames fs => fs
  | .raw _ => []
  | .outOfRange _ => []
  | .pulses _ => []
  | .pulse _ => []

/-- The next operation and the state it starts from: the oldest stimulus, taken off the list. With nothing driven the
cycle is idle, `rst = 0` and `in_valid = 0`, which is a NOP (R72; log 2). -/
def fetch (s : State) : Instr × State :=
  match s.stimulus with
  | [] => (.nop 0x00, s)
  | x :: rest => (decode x, s.setStimulus rest)

/-- `s` with a word placed as the next stimulus; a word that is no input of SBUSDEC places nothing (log 11). -/
def placeWord (s : State) (nbits w : Nat) : State :=
  match wordStimulus nbits w with
  | .ok x => s.setStimulus (x :: s.stimulus)
  | .error _ => s

end Sys2Proof.Machine
end

