-- ==== Sys2Proof/Machine/Operands.lean ====
section
/-! DEFINITION. Operand assembly: the channel index (30_encoding.md R75), the field location of a channel
(41_channel_decoder.md R110) and the bytes it is read from (R111, 20_memory.md R55). -/

namespace Sys2Proof.Machine

/-- The channel an index word selects: `i = zext(ch_idx)` when `i ≤ 15`, none when it is out of range (R73, R75). -/
def channelOf (i : IndexWord) : Option ChannelIndex :=
  if h : i.toNat < 16 then some ⟨i.toNat, h⟩ else none

/-- `bit_idx = 11 * i` (R110). -/
def bitIdx (i : ChannelIndex) : Nat := Config.chBits * i.val

/-- `k = 1 + (bit_idx >> 3)`: the frame position of the field's first byte (R110, R111). -/
def firstByte (i : ChannelIndex) : Nat := Config.payloadFirst + (bitIdx i >>> 3)

/-- `sh = bit_idx & 7` (R111). -/
def fieldShift (i : ChannelIndex) : Nat := bitIdx i &&& 7

/-- `nb = (sh + 11 + 7) >> 3`: the minimal span, 2 or 3 bytes (R111). -/
def spanBytes (i : ChannelIndex) : Nat := (fieldShift i + Config.chBits + 7) >>> 3

/-- Every channel's minimal span lies in payload bytes 1..22 (R112, R117). -/
theorem span_in_payload : ∀ i : ChannelIndex, firstByte i + spanBytes i ≤ 23 := by decide

/-- `n` bytes of a frame from position `k`, the byte at the higher position more significant:
`acc := (acc << 8) | frame[k + j]` for j from n-1 down to 0 (R111, R55). -/
def spanValue (f : Frame) : (n k : Nat) → k + n ≤ 25 → Nat
  | 0, _, _ => 0
  | n + 1, k, h => (spanValue f n (k + 1) (by omega) <<< 8) ||| (f[k]'(by omega)).toNat

/-- `(acc >> sh) & 0x7FF` (R111). -/
def fieldOf (acc sh : Nat) : Raw := BitVec.ofNat 11 ((acc >>> sh) &&& Config.chMask)

end Sys2Proof.Machine
end

