-- ==== Sys2Proof/Machine/Flags.lean ====
section
/-! DEFINITION. The tests the assembler makes on a byte, the writes of the flags `frame_valid` and `frame_strobe`
(10_state.md R25, R26) and the error output `ch_err` (60_exceptions.md R141). -/

namespace Sys2Proof.Machine

/-- The start-marker test, on all 8 bits (R93, R94). -/
def isStart (b : Byte) : Bool := b == Config.startMarker

/-- The end-marker test (R97, R98). -/
def isEnd (b : Byte) : Bool := b == Config.endMarker

/-- `frame_strobe <- 0`, `frame_valid` unchanged: every edge that neither latches nor resets (R25, R26). -/
def State.quietFlags (s : State) : State := s.setFrameStrobe false

/-- `frame_valid <- 1`, `frame_strobe <- 1`: a valid latch (R97). -/
def State.latchFlags (s : State) : State := (s.setFrameValid true).setFrameStrobe true

/-- `frame_valid <- 0`, `frame_strobe <- 0`: RESET (R91). -/
def State.clearFlags (s : State) : State := (s.setFrameValid false).setFrameStrobe false

/-- `ch_err`: 1 exactly when `ch_idx > 15` (R21, R141). -/
def indexError (i : IndexWord) : Bool := decide (15 < i.toNat)

end Sys2Proof.Machine
end

