-- ==== Sys2Proof/Machine/Assembler.lean ====
section
/-! DEFINITION. The frame assembler: RESET, NOP, FEED and DRAIN (40_frame_assembler.md R90 to R100). -/

namespace Sys2Proof.Machine

/-- An edge that emits nothing: `frame_strobe <- 0`, result None (R90, R92, R95). -/
def quietEdge (s : State) : State := s.quietFlags.setResult .noFrame

/-- R93: the start marker in Idle. -/
def startCandidate (b : Byte) (s : State) : State := ((quietEdge s).writeBuf 0 b).setCnt 1

/-- R96: byte `n` of a candidate, 1 ≤ n ≤ 23, stored with no test. -/
def collectByte (n : Position) (b : Byte) (s : State) : State :=
  ((quietEdge s).writeBuf n b).setCnt (s.cnt + 1)

/-- The candidate with its 25th byte: `buf[0..23]` and `b` (R24, R97). -/
def candidate (b : Byte) (s : State) : Frame := s.buf.set 24 b

/-- R97: the end marker closes a valid frame, latched whole at this edge and emitted. -/
def latchCandidate (b : Byte) (s : State) : State :=
  (((s.writeBuf 24 b).setFrame (candidate b s)).latchFlags.setCnt 0).setResult (.someFrame (candidate b s))

/-- R98: any other 25th byte discards the candidate. -/
def discardCandidate (b : Byte) (s : State) : State := ((quietEdge s).writeBuf 24 b).setCnt 0

/-- Accepting one byte, by the cases R93, R94, R96, R97 and R98 of R90. -/
def feedByte (b : Byte) (s : State) : Answer :=
  s.whenCounterInRange <|
    if s.cnt.toNat = 0 then
      if isStart b then .next (startCandidate b s) else .next (quietEdge s)
    else if h : s.cnt.toNat < 24 then
      .next (collectByte ⟨s.cnt.toNat, by omega⟩ b s)
    else
      if isEnd b then .next (latchCandidate b s) else .next (discardCandidate b s)

/-- R91: the writes of RESET; `buf` is not written. -/
def resetEdge (s : State) : State := ((s.setCnt 0).setFrame zeroFrame).clearFlags.setResult .noFrame

/-- FEED of every byte in turn, the emitted frames collected in arrival order (R100). -/
def drainFrom : List Byte → List Frame → State → Answer
  | [], out, s => .next (s.setResult (.frames out))
  | b :: bs, out, s =>
    match feedByte b s with
    | .next t => drainFrom bs (out ++ emitted t.result) t
    | .fault r => .fault r
    | .refused r => .refused r

/-- FEED (R90). -/
def execFeed (b : Byte) (s : State) : Answer := feedByte b s

/-- RESET (R91, R160): `in_valid` and `in_byte` are ignored; it has its effect in every state. -/
def execReset (_v : Bool) (_b : Byte) (s : State) : Answer := .next (resetEdge s)

/-- NOP (R92): `frame_strobe <- 0`; `in_byte` is ignored. -/
def execNop (_b : Byte) (s : State) : Answer := s.whenCounterInRange (.next (quietEdge s))

/-- DRAIN (R100): m consecutive FEEDs, whose result is the list of emitted frames (log 14). -/
def execDrain (bytes : List Byte) (s : State) : Answer := s.whenCounterInRange (drainFrom bytes [] s)

end Sys2Proof.Machine
end

