-- ==== Sys2Proof/Machine/ChannelDecoder.lean ====
section
/-! DEFINITION. The channel decoder: GET_CHANNEL, SCALE and GET_CHANNELS (41_channel_decoder.md R110 to R126). It reads
`frame` and writes no state element (R60). -/

namespace Sys2Proof.Machine

/-- The raw value of channel `i` of a frame (R111). -/
def unpack (f : Frame) (i : ChannelIndex) : Raw :=
  fieldOf (spanValue f (spanBytes i) (firstByte i) (by have := span_in_payload i; omega)) (fieldShift i)

/-- GET_CHANNEL on a frame by a mathematical index: the raw value for 0..15, the error with the offending index, and no
value, for every other integer (R111, R115, U9; log 20). -/
def getChannelAt (f : Frame) (i : Int) : Except Int Raw :=
  if h : 0 ≤ i ∧ i ≤ 15 then .ok (unpack f ⟨i.toNat, by omega⟩) else .error i

/-- The shift by SCALE_SHIFT: floor division by 2^SCALE_SHIFT (R10, D15), or toward zero where the parameter says so
(R7, U4). -/
def scaleShift (p : ScaleParams) (m : Int) : Int :=
  match p.rounding with
  | .floor => m >>> p.shift
  | .towardZero => m.tdiv (2 ^ p.shift)

/-- SCALE on integers, for any parameters (R120, R126). -/
def scaleInt (p : ScaleParams) (raw : Int) : Int :=
  scaleShift p ((raw - p.offset) * p.mul) + p.center

/-- SCALE at this block's parameters, as a PULSE_W-bit value (R120; no result wraps, R121; log 9). -/
def scale (raw : Raw) : Pulse := BitVec.ofInt 12 (scaleInt Config.scale raw.toNat)

/-- GET_CHANNELS of a frame: lane i is SCALE of channel i, through the same unpacking (R124, R125). -/
def pulsesOf (f : Frame) : Lanes := Vector.ofFn fun i => scale (unpack f i)

/-- GET_CHANNEL (R111): `ch_idx` takes the index; the result is the channel's raw value, or OutOfRange for 16..255
(R115, R141; log 7). -/
def execGetChannel (i : IndexWord) (s : State) : Answer :=
  s.whenCounterInRange <|
    match channelOf i with
    | some c => .next ((s.setChIdx i).setResult (.raw (unpack s.frame c)))
    | none => .next (s.raiseOutOfRange i)

/-- GET_CHANNELS (R124), always performed on `frame`. -/
def execGetChannels (s : State) : Answer := s.whenCounterInRange (.next (s.setResult (.pulses (pulsesOf s.frame))))

/-- SCALE (R120). -/
def execScale (raw : Raw) (s : State) : Answer := s.whenCounterInRange (.next (s.setResult (.pulse (scale raw))))

end Sys2Proof.Machine
end

