-- ==== Sys2Proof/Machine/Dispatch.lean ====
section
/-! DEFINITION. One arm per operation of spec/opcode_table.json. -/

namespace Sys2Proof.Machine

def exec (i : Instr) (s : State) : Host.Outcome State Fault Refusal :=
  match i with
  | .reset v b => Sys2Proof.Machine.execReset v b s
  | .feed b => Sys2Proof.Machine.execFeed b s
  | .nop b => Sys2Proof.Machine.execNop b s
  | .getChannel idx => Sys2Proof.Machine.execGetChannel idx s
  | .getChannels => Sys2Proof.Machine.execGetChannels s
  | .scale raw => Sys2Proof.Machine.execScale raw s
  | .drain bytes => Sys2Proof.Machine.execDrain bytes s

end Sys2Proof.Machine
end

