-- ==== Sys2Proof/Machine/Step.lean ====
section
/-! DEFINITION. One step: the next stimulus is taken and its operation performed. A step of a format S word is one rising
edge of `clk` (00_scope.md R12); GETCH and GETALL take no edge (30_encoding.md R82; log 1). -/

namespace Sys2Proof.Machine

/-- One step of the machine. -/
def step (s : State) : Host.Outcome State Fault Refusal := exec (fetch s).1 (fetch s).2

/-- `s` with the word `w` of `nbits` bits as the next stimulus. -/
def State.withFetchWord (s : State) (nbits w : Nat) : State := placeWord s nbits w

end Sys2Proof.Machine
end

