-- ==== Sys2Proof/Machine/Ports.lean ====
section
/-! DEFINITION. The ports of 10_state.md R20 and R21: the inputs the next edge samples, and the outputs as functions of
the state within the cycle; and the values a CHECK can name (30_encoding.md R82). -/

namespace Sys2Proof.Machine

/-- The input ports of R20 in one cycle. -/
structure Inputs where
  rst : Bool
  inValid : Bool
  inByte : Byte
  chIdx : IndexWord
  deriving DecidableEq, Repr

/-- The output ports of R21 in one cycle. -/
structure Outputs where
  frameStrobe : Bool
  frameValid : Bool
  frameOut : BitVec 200
  chRaw : Raw
  chErr : Bool
  pulseOut : BitVec 192
  asmCnt : Counter
  deriving DecidableEq, Repr

/-- The step word the next edge samples: the oldest one driven, the idle word when none is (R71; log 1, log 2). -/
def nextStepWord : List Stimulus → StepWord
  | [] => 0x000
  | .stepWord w :: _ => w
  | .indexWord _ :: rest => nextStepWord rest
  | .readPulses :: rest => nextStepWord rest

/-- The input ports as they stand: the coming edge's step word and the level on `ch_idx`. -/
def State.inputs (s : State) : Inputs where
  rst := stepR (nextStepWord s.stimulus)
  inValid := stepV (nextStepWord s.stimulus)
  inByte := stepB (nextStepWord s.stimulus)
  chIdx := s.chIdx

/-- Fields of `w` bits laid side by side, the first in the lowest bits. -/
def packLow (w : Nat) : List (BitVec w) → Nat
  | [] => 0
  | x :: xs => x.toNat + 2 ^ w * packLow w xs

/-- `frame_out`: byte k on bits 8k+7:8k (R21, R56). -/
def State.frameOut (s : State) : BitVec 200 := BitVec.ofNat 200 (packLow 8 s.frame.toList)

/-- `ch_raw`: the selected channel, or 0x000, which is no value, when the index is out of range (R21, R141). -/
def State.chRaw (s : State) : Raw :=
  match channelOf s.chIdx with
  | some c => unpack s.frame c
  | none => 0x000

/-- `ch_err` (R21, R141). -/
def State.chErr (s : State) : Bool := indexError s.chIdx

/-- `pulse_out`: lane i on bits 12i+11:12i (R21, R124). -/
def State.pulseOut (s : State) : BitVec 192 := BitVec.ofNat 192 (packLow 12 (pulsesOf s.frame).toList)

/-- All output ports in one cycle (R21). -/
def State.outputs (s : State) : Outputs where
  frameStrobe := s.frameStrobe
  frameValid := s.frameValid
  frameOut := s.frameOut
  chRaw := s.chRaw
  chErr := s.chErr
  pulseOut := s.pulseOut
  asmCnt := s.cnt

/-- The value an output or state element has (R82). -/
def State.observe (s : State) : Observable → Nat
  | .asmCnt => s.cnt.toNat
  | .bufByte k => s.buf[k].toNat
  | .frameByte k => s.frame[k].toNat
  | .frameOut => s.frameOut.toNat
  | .frameValid => s.frameValid.toNat
  | .frameStrobe => s.frameStrobe.toNat
  | .chRaw => s.chRaw.toNat
  | .chErr => s.chErr.toNat
  | .pulseOut => s.pulseOut.toNat
  | .pulseLane i => (pulsesOf s.frame)[i].toNat

end Sys2Proof.Machine
end

