-- ==== Sys2Proof/Machine/Program.lean ====
section
/-! DEFINITION. A program of the stimulus syntax as a run of the machine: its start state, and the state at the point of
each CHECK (30_encoding.md R82, R84). -/

namespace Sys2Proof.Machine

/-- `k` steps of the machine, stopping at the first fault or refusal. -/
def runSteps : Nat → State → Answer
  | 0, s => .next s
  | k + 1, s =>
    match step s with
    | .next t => runSteps k t
    | .fault r => .fault r
    | .refused r => .refused r

/-- A program: its statements, and its start state where it names one (R84). -/
structure Program where
  start : Option State
  statements : List Statement
  deriving DecidableEq, Repr

/-- A CHECK at its point: how many steps of the program come before it, what it names and the value it states. -/
structure CheckPoint where
  after : Nat
  name : Observable
  v : Nat
  deriving DecidableEq, Repr

/-- The state with the statements' stimuli loaded behind what is already driven (log 11). -/
def State.load (s : State) (p : List Statement) : State := s.setStimulus (s.stimulus ++ stimuli (assemble p))

/-- Where a program starts, its stimuli loaded: "the state after one `RESET` unless the program says otherwise" (R84),
here a RESET in the state `before`. -/
def Program.startState (p : Program) (before : State) : State :=
  ((p.start.getD (resetEdge before)).setStimulus []).load p.statements

/-- The CHECKs among a program's items, `k` steps having come before. A CHECK takes no step itself (R82). -/
def checkPointsFrom : Nat → List ProgramItem → List CheckPoint
  | _, [] => []
  | k, .stepWord _ :: rest => checkPointsFrom (k + 1) rest
  | k, .beside (.indexWord _) :: rest => checkPointsFrom (k + 1) rest
  | k, .beside .readPulses :: rest => checkPointsFrom (k + 1) rest
  | k, .beside (.check name v) :: rest => ⟨k, name, v⟩ :: checkPointsFrom k rest

/-- The CHECKs of a program, in order. -/
def Program.checkPoints (p : Program) : List CheckPoint := checkPointsFrom 0 (assemble p.statements)

/-- The state at the point of a CHECK: what the steps before it leave (R82). -/
def Program.stateAt (p : Program) (before : State) (c : CheckPoint) : Answer := runSteps c.after (p.startState before)

/-- What a CHECK states holds in a state (R82). -/
def CheckPoint.holdsIn (c : CheckPoint) (s : State) : Bool := s.observe c.name == c.v

/-- Every CHECK of the program holds at its point. -/
def Program.checksHold (p : Program) (before : State) : Bool :=
  p.checkPoints.all fun c =>
    match p.stateAt before c with
    | .next t => c.holdsIn t
    | .fault _ => false
    | .refused _ => false

end Sys2Proof.Machine
end

