-- ==== Sys2Proof/Safety.lean ====
section
/-! DEFINITION. What a good state is (10_state.md R29 to R31), and the words the claims about runs are written in. -/

namespace Sys2Proof.Machine

/-- R29: "`cnt` is always in 0..24". -/
abbrev CounterInRange (s : State) : Prop := s.cnt.toNat ≤ 24

/-- R30: while collecting, `buf[0] = 0x0F`. -/
abbrev CandidateStarted (s : State) : Prop := s.cnt ≠ 0 → s.buf[0] = Config.startMarker

/-- R31: with `frame_valid = 1` the frame has its markers; with `frame_valid = 0` it is all zeros. -/
abbrev FrameMatchesFlag (s : State) : Prop :=
  (s.frameValid = true → s.frame[0] = Config.startMarker ∧ s.frame[24] = Config.endMarker) ∧
  (s.frameValid = false → s.frame = zeroFrame)

/-- A strobe stands only in the cycle after a latch: the frame is valid and the assembler is Idle (R26, R97). -/
abbrev StrobeAfterLatch (s : State) : Prop := s.frameStrobe = true → s.frameValid = true ∧ s.cnt = 0

/-- The invariant of the block from reset on. -/
abbrev Inv (s : State) : Prop :=
  CounterInRange s ∧ CandidateStarted s ∧ FrameMatchesFlag s ∧ StrobeAfterLatch s

/-- The two states have the same five state elements of R22 to R26. -/
abbrev SameBlock (s t : State) : Prop :=
  t.cnt = s.cnt ∧ t.buf = s.buf ∧ t.frame = s.frame ∧ t.frameValid = s.frameValid ∧ t.frameStrobe = s.frameStrobe

/-- The two states agree on all but the bytes of `buf` that the current candidate has not written (R30). -/
abbrev SameButUnwritten (s t : State) : Prop :=
  t.cnt = s.cnt ∧ (∀ k : Position, k.val < s.cnt.toNat → t.buf[k] = s.buf[k]) ∧ t.frame = s.frame ∧
  t.frameValid = s.frameValid ∧ t.frameStrobe = s.frameStrobe ∧ t.chIdx = s.chIdx ∧ t.stimulus = s.stimulus ∧
  t.result = s.result

/-- The state elements and outputs have the values R33 gives after reset (`buf` apart, which RESET does not write). -/
abbrev ShowsResetValues (t : State) : Prop :=
  t.cnt = 0 ∧ t.frameValid = false ∧ t.frameStrobe = false ∧ (∀ k : Position, t.frame[k] = 0x00) ∧ t.frameOut = 0 ∧
  (∀ i : IndexWord, i.toNat ≤ 15 →
    State.chRaw { t with chIdx := i } = 0 ∧ State.chErr { t with chIdx := i } = false) ∧
  (∀ i : ChannelIndex, t.pulseOut.extractLsb' (12 * i.val) 12 = 880#12)

/-- The stimulus that feeds the given bytes, one per edge (R83). -/
def feeds (bytes : List Byte) : List Stimulus := bytes.map fun b => .stepWord (encodeStep false true b)

/-- The bytes a stimulus list feeds, in order: those of its FEED words. -/
def fedBytes (xs : List Stimulus) : List Byte :=
  xs.filterMap fun x =>
    match decode x with
    | .feed b => some b
    | .reset _ _ => none
    | .nop _ => none
    | .getChannel _ => none
    | .getChannels => none
    | .scale _ => none
    | .drain _ => none

/-- No stimulus of the list is a RESET. -/
def noReset (xs : List Stimulus) : Bool :=
  xs.all fun x =>
    match decode x with
    | .reset _ _ => false
    | .feed _ => true
    | .nop _ => true
    | .getChannel _ => true
    | .getChannels => true
    | .scale _ => true
    | .drain _ => true

/-- The step words of a program's items, in order. -/
def stepWords (items : List ProgramItem) : List StepWord :=
  items.filterMap fun x =>
    match x with
    | .stepWord w => some w
    | .beside _ => none

/-- The frames emitted by `k` steps, in arrival order (R61, R95). -/
def emissions : Nat → State → List Frame
  | 0, _ => []
  | k + 1, s =>
    match step s with
    | .next t => emitted t.result ++ emissions k t
    | .fault _ => []
    | .refused _ => []

/-- A valid frame: the start marker at byte 0 and the end marker at byte 24 (R52). -/
abbrev ValidFrame (f : Frame) : Prop := f[0] = Config.startMarker ∧ f[24] = Config.endMarker

/-- Payload bit q, 0..175, of a frame: bit `q % 8` of byte `1 + q // 8` (R53). -/
def payloadBit (f : Frame) (q : Fin 176) : Bool := (f[1 + q.val / 8]).getLsbD (q.val % 8)

end Sys2Proof.Machine
end

