-- ==== Sys2Proof/Certificates/Slice0/Obligations.lean ====
section
/-! DEFINITION. The statements for the provers. Each docstring names the rule of spec/ it rests on, and the log entry of
notes/assumptions where a clause is the model's choice. The field `result` is the model's own record (log 5): a clause
about it says what the operation returns at the transaction level (00_scope.md R12). -/

open Sys2Proof Sys2Proof.Machine

/-! ## Encoding -/

/-- R71, R72, R73: words written out from the formats `R V BBBBBBBB` and `ch_idx[7:0]`, and the operations they stand for. -/
def Obligations.WrittenWordsDecodeToTheirOperations : Prop :=
  decodeTableWord 16 0b1000000000 = some (.reset false 0x00) ∧
  decodeTableWord 16 0b1100001111 = some (.reset true 0x0F) ∧
  decodeTableWord 16 0b0100001111 = some (.feed 0x0F) ∧
  decodeTableWord 16 0b0110101010 = some (.feed 0xAA) ∧
  decodeTableWord 16 0b0000000000 = some (.nop 0x00) ∧
  decodeTableWord 16 0b0011111111 = some (.nop 0xFF) ∧
  decodeTableWord 8 0b00001111 = some (.getChannel 0x0F) ∧
  decodeTableWord 8 0b00010000 = some (.getChannel 0x10)

/-- R72: the three rows "cover all 1024 values of the word with no overlap", each row is selected exactly by its match and
mask, and the operand is B. -/
def Obligations.StepWordMapSelectsOneOperation : Prop :=
  ∀ w : StepWord,
    (w &&& 0x200 = 0x200 ∨ w &&& 0x300 = 0x100 ∨ w &&& 0x300 = 0x000) ∧
    ¬ (w &&& 0x200 = 0x200 ∧ w &&& 0x300 = 0x100) ∧
    ¬ (w &&& 0x200 = 0x200 ∧ w &&& 0x300 = 0x000) ∧
    ¬ (w &&& 0x300 = 0x100 ∧ w &&& 0x300 = 0x000) ∧
    (w &&& 0x200 = 0x200 ↔ decode (.stepWord w) = .reset (w.getLsbD 8) (w.extractLsb' 0 8)) ∧
    (w &&& 0x300 = 0x100 ↔ decode (.stepWord w) = .feed (w.extractLsb' 0 8)) ∧
    (w &&& 0x300 = 0x000 ↔ decode (.stepWord w) = .nop (w.extractLsb' 0 8))

/-- Decode and encode agree both ways: no bit of a word and no operand is lost. SCALE has no word (R120) and DRAIN is its
FEED words (R100). GET_CHANNELS has no encoding in the spec (R70, R124): that the observation `readPulses` stands for it in
the first and last clause is the model's choice of log 15. -/
def Obligations.DecodeInvertsEncode : Prop :=
  (∀ i : Instr, i.WellFormed → (∀ raw, i ≠ .scale raw) → (∀ bytes, i ≠ .drain bytes) →
    ∃ x, encode i = [x] ∧ decode x = i) ∧
  (∀ bytes : List Byte, (encode (.drain bytes)).map decode = bytes.map Instr.feed) ∧
  (∀ raw : Raw, encode (.scale raw) = []) ∧
  (∀ x : Stimulus, encode (decode x) = [x])

/-- Which words are inputs at all (R70, R71, R73): 8-bit index words and 10-bit step words laid out in whole bytes, by the
model's layout of log 11; nothing else decodes. -/
def Obligations.OnlyFormatWordsDecode : Prop :=
  (∀ w, decodeTableWord 8 w = if w < 256 then some (.getChannel (BitVec.ofNat 8 w)) else none) ∧
  (∀ w, decodeTableWord 16 w = if w < 1024 then some (decode (.stepWord (BitVec.ofNat 10 w))) else none) ∧
  (∀ nbits w, 16 < nbits → decodeTableWord nbits w = none)

/-- R82, R83: the statements and pseudo-statements stand for their step words. -/
def Obligations.StatementsExpandToTheirWords : Prop :=
  Statement.reset.expand = [.stepWord 0x200] ∧
  Statement.nop.expand = [.stepWord 0x000] ∧
  (∀ b : Byte, (Statement.feed b).expand = [.stepWord (0x100 ||| b.setWidth 10)]) ∧
  (∀ i, (Statement.getch i).expand = [.beside (.indexWord i)]) ∧
  Statement.getall.expand = [.beside .readPulses] ∧
  (∀ name v, (Statement.check name v).expand = [.beside (.check name v)]) ∧
  (∀ f : Frame, (Statement.frame f).expand = f.toList.flatMap fun b => (Statement.feed b).expand) ∧
  (∀ bytes, (Statement.drain bytes).expand = bytes.flatMap fun b => (Statement.feed b).expand) ∧
  (∀ k, (Statement.nops k).expand = (List.replicate k Statement.nop).flatMap Statement.expand) ∧
  (∀ b k, (Statement.fill b k).expand = (List.replicate k (Statement.feed b)).flatMap Statement.expand)

/-! ## A step -/

/-- A step performs the operation the oldest stimulus decodes to, on the state without that stimulus (R12, R61, R84; log 1). -/
def Obligations.StepRunsTheDecodedStimulus : Prop :=
  ∀ (s : State) (x : Stimulus) (rest : List Stimulus), s.stimulus = x :: rest →
    step s = exec (decode x) { s with stimulus := rest }

/-- The model's choice of log 2: with nothing driven, a step is an idle edge, a NOP. -/
def Obligations.StepWithNothingDrivenIsANop : Prop :=
  ∀ s : State, s.stimulus = [] → step s = exec (.nop 0x00) s

/-- A word placed for the next fetch is the one the next step runs (log 11). -/
def Obligations.PlacedWordIsRunByTheNextStep : Prop :=
  ∀ s : State,
    (∀ w, w < 1024 → step (s.withFetchWord 16 w) = exec (decode (.stepWord (BitVec.ofNat 10 w))) s) ∧
    (∀ w, w < 256 → step (s.withFetchWord 8 w) = exec (.getChannel (BitVec.ofNat 8 w)) s)

/-- R20, R71, R72: the levels on `rst`, `in_valid` and `in_byte` at an edge select its operation and its operand. -/
def Obligations.InputPortsSelectTheEdge : Prop :=
  ∀ (s : State) (w : StepWord) (rest : List Stimulus), s.stimulus = .stepWord w :: rest →
    (s.inputs.rst = true → step s = exec (.reset s.inputs.inValid s.inputs.inByte) { s with stimulus := rest }) ∧
    (s.inputs.rst = false → s.inputs.inValid = true → step s = exec (.feed s.inputs.inByte) { s with stimulus := rest }) ∧
    (s.inputs.rst = false → s.inputs.inValid = false → step s = exec (.nop s.inputs.inByte) { s with stimulus := rest })

/-! ## RESET and NOP -/

/-- R91: RESET's writes, `buf` not written, everything else as it was; it completes in every state. -/
def Obligations.ResetWritesItsConstants : Prop :=
  ∀ (v : Bool) (b : Byte) (s : State),
    exec (.reset v b) s = .next { s with
      cnt := 0, frame := Vector.replicate 25 0x00, frameValid := false, frameStrobe := false, result := .noFrame }

/-- R160: `rst = 1` at one edge, or held for several, from any state. -/
def Obligations.HeldResetGivesTheResetState : Prop :=
  ∀ (s : State) (w : StepWord) (ws : List StepWord), (∀ x ∈ w :: ws, x &&& 0x200 = 0x200) →
    runSteps (ws.length + 1) { s with stimulus := (w :: ws).map .stepWord } = .next { s with
      cnt := 0, frame := Vector.replicate 25 0x00, frameValid := false, frameStrobe := false,
      stimulus := [], result := .noFrame }

/-- R33: the reset values of the state elements with `buf` unchanged, and the combinational outputs that follow, both
after RESET in any state and in the model's state after reset. -/
def Obligations.ResetValuesAndOutputs : Prop :=
  (∀ (v : Bool) (b : Byte) (s : State), ∃ t, exec (.reset v b) s = .next t ∧ t.buf = s.buf ∧ ShowsResetValues t) ∧
  ShowsResetValues State.reset

/-- R145: with `rst = 1` and `in_valid = 1` the step is RESET and the presented byte is not accepted. -/
def Obligations.ResetWinsOverAPresentedByte : Prop :=
  ∀ (s : State) (b : Byte) (rest : List Stimulus),
    step { s with stimulus := .stepWord (encodeStep true true b) :: rest } = .next { s with
      cnt := 0, frame := Vector.replicate 25 0x00, frameValid := false, frameStrobe := false,
      stimulus := rest, result := .noFrame }

/-- R79: B is ignored when V = 0, and V and B when R = 1. -/
def Obligations.IgnoredFieldsHaveNoEffect : Prop :=
  ∀ (s : State) (w w' : StepWord) (rest : List Stimulus),
    ((w.getLsbD 9 = true ∧ w'.getLsbD 9 = true) ∨
     (w.getLsbD 9 = false ∧ w.getLsbD 8 = false ∧ w'.getLsbD 9 = false ∧ w'.getLsbD 8 = false)) →
    step { s with stimulus := .stepWord w :: rest } = step { s with stimulus := .stepWord w' :: rest }

/-- R92: "`frame_strobe <- 0`; nothing else changes", in every state whose `cnt` has a meaning (R81). -/
def Obligations.NopClearsOnlyTheStrobe : Prop :=
  ∀ (b : Byte) (s : State), s.cnt.toNat ≤ 24 → exec (.nop b) s = .next { s with frameStrobe := false, result := .noFrame }

/-- R143: `cnt` keeps its value through any number of NOP cycles with no emission, and only bytes or RESET change it. -/
def Obligations.PartialFrameWaitsThroughIdleCycles : Prop :=
  (∀ (k : Nat) (s : State), 0 < k → s.cnt.toNat ≤ 24 →
    runSteps k { s with stimulus := List.replicate k (.stepWord 0x000) } =
      .next { s with frameStrobe := false, stimulus := [], result := .noFrame } ∧
    emissions k { s with stimulus := List.replicate k (.stepWord 0x000) } = []) ∧
  (∀ (i : Instr) (s t : State), exec i s = .next t → t.cnt ≠ s.cnt →
    (∃ v b, i = .reset v b) ∨ (∃ b, i = .feed b) ∨ (∃ b bytes, i = .drain (b :: bytes)))

/-! ## FEED -/

/-- R93: the start marker in Idle. -/
def Obligations.FeedStartMarkerInIdle : Prop :=
  ∀ s : State, s.cnt = 0 →
    exec (.feed 0x0F) s = .next { s with
      buf := s.buf.set 0 0x0F, cnt := 1, frameStrobe := false, result := .noFrame }

/-- R94: any other byte in Idle is discarded. -/
def Obligations.FeedOtherByteInIdle : Prop :=
  ∀ (b : Byte) (s : State), s.cnt = 0 → b ≠ 0x0F →
    exec (.feed b) s = .next { s with frameStrobe := false, result := .noFrame }

/-- R96: a byte in Collecting(n), 1 ≤ n ≤ 23, is stored at n with no test. -/
def Obligations.FeedStoresInCollecting : Prop :=
  ∀ (b : Byte) (s : State) (n : Nat) (hn : n ≤ 23), 1 ≤ n → s.cnt.toNat = n →
    exec (.feed b) s = .next { s with
      buf := s.buf.set n b, cnt := BitVec.ofNat 5 (n + 1), frameStrobe := false, result := .noFrame }

/-- R97: the end marker at Collecting(24) latches the whole candidate at one edge and emits it. -/
def Obligations.FeedEndMarkerLatchesTheFrame : Prop :=
  ∀ s : State, s.cnt = 24 →
    ∃ f : Frame, (∀ k : Position, k.val ≤ 23 → f[k] = s.buf[k]) ∧ f[24] = 0x00 ∧
      exec (.feed 0x00) s = .next { s with
        buf := s.buf.set 24 0x00, frame := f, frameValid := true, frameStrobe := true, cnt := 0,
        result := .someFrame f }

/-- R98: any other 25th byte discards the candidate; the last valid frame stays. -/
def Obligations.FeedOtherByteDiscardsTheCandidate : Prop :=
  ∀ (b : Byte) (s : State), s.cnt = 24 → b ≠ 0x00 →
    exec (.feed b) s = .next { s with
      buf := s.buf.set 24 b, cnt := 0, frameStrobe := false, result := .noFrame }

/-- R81, U2: `cnt` 25..31 has no meaning, and a model that holds a 5-bit `cnt` "faults if it ever holds 25..31": every
operation but RESET stops there with the fault of log 4, and RESET leads back to Idle (R160). -/
def Obligations.UnreachableCounterStopsAllButReset : Prop :=
  ∀ s : State, 24 < s.cnt.toNat →
    (∀ i : Instr, (∀ v b, i ≠ .reset v b) → exec i s = .fault .counterUnreachable) ∧
    (∀ v b, ∃ t, exec (.reset v b) s = .next t ∧ t.cnt = 0) ∧
    ((∀ w rest, s.stimulus = .stepWord w :: rest → w &&& 0x200 = 0x000) → step s = .fault .counterUnreachable)

/-- R95: a FEED emits exactly when it takes case R97, and the emission is the strobe, the flag and the frame register. -/
def Obligations.FeedEmitsExactlyAtAValidLatch : Prop :=
  ∀ (b : Byte) (s t : State), exec (.feed b) s = .next t →
    ((∃ f, t.result = .someFrame f) ↔ s.cnt = 24 ∧ b = 0x00) ∧
    (t.frameStrobe = true ↔ s.cnt = 24 ∧ b = 0x00) ∧
    (t.result = .noFrame ∨ ∃ f, t.result = .someFrame f ∧ t.frame = f ∧ t.frameValid = true ∧
      ∀ k : Position, t.frameOut.extractLsb' (8 * k.val) 8 = f[k])

/-! ## DRAIN and the laws of the assembler -/

/-- R100: "m = 0 changes nothing and yields no frame". -/
def Obligations.EmptyDrainChangesNothing : Prop :=
  ∀ s : State, s.cnt.toNat ≤ 24 → exec (.drain []) s = .next { s with result := .frames [] }

/-- R100: a DRAIN completes, leaves the block as m consecutive FEED steps leave it, and yields the frames they emit, in
order. -/
def Obligations.DrainIsConsecutiveFeeds : Prop :=
  ∀ (bytes : List Byte) (s : State) (rest : List Stimulus), s.cnt.toNat ≤ 24 →
    ∃ t u, exec (.drain bytes) s = .next t ∧
      runSteps bytes.length { s with stimulus := feeds bytes ++ rest } = .next u ∧
      SameBlock u t ∧ u.stimulus = rest ∧
      t.result = .frames (emissions bytes.length { s with stimulus := feeds bytes ++ rest }) ∧
      t.chIdx = s.chIdx ∧ t.stimulus = s.stimulus

/-- R100: at most `m // 25 + 1` frames come out, and at most `m // 25` from Idle. -/
def Obligations.DrainYieldsAtMostOneFramePer25Bytes : Prop :=
  ∀ (bytes : List Byte) (s t : State), exec (.drain bytes) s = .next t →
    ∃ fs, t.result = .frames fs ∧ fs.length ≤ bytes.length / 25 + 1 ∧
      (s.cnt = 0 → fs.length ≤ bytes.length / 25)

/-- R24, R25, R100: the frame of a DRAIN. What it leaves: the inputs always; `frame` and `frame_valid` when it yields
nothing; otherwise `frame` is the last frame yielded and `frame_valid` is 1. -/
def Obligations.DrainWritesTheFrameRegisterOnlyByEmitting : Prop :=
  ∀ (bytes : List Byte) (s t : State), exec (.drain bytes) s = .next t →
    t.chIdx = s.chIdx ∧ t.stimulus = s.stimulus ∧
    ((t.result = .frames [] ∧ t.frame = s.frame ∧ t.frameValid = s.frameValid) ∨
     (∃ fs f, t.result = .frames (fs ++ [f]) ∧ t.frame = f ∧ t.frameValid = true))

/-- R101: a valid frame fed from Idle is emitted once, at its 25th byte, and latched. -/
def Obligations.ValidFrameRoundTrips : Prop :=
  ∀ (f : Frame) (s : State), ValidFrame f → s.cnt = 0 →
    (∃ u, exec (.drain (f.toList.take 24)) s = .next u ∧ u.result = .frames [] ∧ u.cnt = 24) ∧
    (∃ t, exec (.drain f.toList) s = .next t ∧ t.result = .frames [f] ∧ t.cnt = 0 ∧ t.frame = f ∧
      t.frameValid = true ∧ t.frameStrobe = true)

/-- R102: a frame with a wrong end marker is dropped with nothing changed, and a valid frame fed next is emitted. -/
def Obligations.CorruptFrameIsDiscarded : Prop :=
  ∀ (f : Frame) (s : State), f[0] = 0x0F → f[24] ≠ 0x00 → s.cnt = 0 →
    (∃ t, exec (.drain f.toList) s = .next t ∧ t.result = .frames [] ∧ t.cnt = 0 ∧ t.frame = s.frame ∧
      t.frameValid = s.frameValid) ∧
    (∀ g : Frame, ValidFrame g →
      ∃ t, exec (.drain (f.toList ++ g.toList)) s = .next t ∧ t.result = .frames [g] ∧ t.frame = g)

/-- R103: noise without a start marker is skipped; a noise `0x0F` swallows the first 24 bytes of the frame after it, and
that false candidate is emitted when byte 23 of the frame is `0x00` (R104). -/
def Obligations.LeadingNoiseIsSkipped : Prop :=
  (∀ (noise : List Byte) (f : Frame) (s : State), (∀ b ∈ noise, b ≠ 0x0F) → ValidFrame f → s.cnt = 0 →
    ∃ t, exec (.drain (noise ++ f.toList)) s = .next t ∧ t.result = .frames [f] ∧ t.frame = f ∧ t.cnt = 0) ∧
  (∀ (f g : Frame) (s : State), s.cnt = 0 → g[0] = 0x0F →
    (∀ k : Fin 24, g[k.val + 1] = f[k.val]) →
    ∃ t, exec (.drain (0x0F :: f.toList.take 24)) s = .next t ∧ t.cnt = 0 ∧
      t.result = .frames (if f[23] = 0x00 then [g] else []))

/-- R30, R76, R99: from a start marker on, up to 23 further bytes, whatever they are, are collected in arrival order with
no restart and no emission. -/
def Obligations.CandidateCollectsInArrivalOrder : Prop :=
  ∀ (bytes : List Byte) (s : State), s.cnt = 0 → bytes.length ≤ 23 →
    ∃ t, exec (.drain (0x0F :: bytes)) s = .next t ∧ t.cnt.toNat = bytes.length + 1 ∧ t.result = .frames [] ∧
      t.frame = s.frame ∧ t.frameValid = s.frameValid ∧
      t.buf.toList.take (bytes.length + 1) = 0x0F :: bytes ∧
      t.buf.toList.drop (bytes.length + 1) = s.buf.toList.drop (bytes.length + 1)

/-- R100, R60, R105: idle cycles and reads between the bytes change neither the frames emitted nor the assembler; only the
order of accepted bytes matters. -/
def Obligations.IdleCyclesAndReadsDoNotChangeTheFrames : Prop :=
  ∀ (xs : List Stimulus) (s : State), noReset xs = true → s.cnt.toNat ≤ 24 →
    ∃ t u, exec (.drain (fedBytes xs)) s = .next t ∧ runSteps xs.length { s with stimulus := xs } = .next u ∧
      u.cnt = t.cnt ∧ u.buf = t.buf ∧ u.frame = t.frame ∧ u.frameValid = t.frameValid ∧
      t.result = .frames (emissions xs.length { s with stimulus := xs })

/-! ## GET_CHANNEL -/

/-- R111: an index 0..15 reads its channel, in every state whose `cnt` has a meaning (R81); bit t of the value is bit `(8 + 11i + t) % 8` of frame byte
`(8 + 11i + t) // 8` (R113). The index stands on `ch_idx` and nothing else changes. -/
def Obligations.GetChannelReadsTheSelectedField : Prop :=
  ∀ (i : IndexWord) (s : State), s.cnt.toNat ≤ 24 → i.toNat ≤ 15 →
    ∃ v : Raw, exec (.getChannel i) s = .next { s with chIdx := i, result := .raw v } ∧
      State.chRaw { s with chIdx := i } = v ∧ State.chErr { s with chIdx := i } = false ∧
      ∀ t : Fin 11, ∃ h : (8 + 11 * i.toNat + t.val) / 8 < 25,
        v.getLsbD t.val = (s.frame[(8 + 11 * i.toNat + t.val) / 8]).getLsbD ((8 + 11 * i.toNat + t.val) % 8)

/-- R115, R141: an index 16..255 gives the error and no value, at no state's cost; the error is not sticky, and the
pulses are unaffected. -/
def Obligations.OutOfRangeIndexShowsTheError : Prop :=
  (∀ (i : IndexWord) (s : State), s.cnt.toNat ≤ 24 → 15 < i.toNat →
    exec (.getChannel i) s = .next { s with chIdx := i, result := .outOfRange i } ∧
    State.chErr { s with chIdx := i } = true ∧ State.chRaw { s with chIdx := i } = 0x000 ∧
    State.pulseOut { s with chIdx := i } = s.pulseOut) ∧
  (∀ (s : State), s.chErr = true ↔ 15 < s.chIdx.toNat) ∧
  (∀ (i j : IndexWord) (s t u : State), exec (.getChannel i) s = .next t → exec (.getChannel j) t = .next u →
    exec (.getChannel j) s = .next u)

/-- R75, U9: the signed and the unsigned reading of an index agree on whether it is a channel, and any integer outside
0..15 is the error with no value (log 20). -/
def Obligations.SignedAndUnsignedIndicesAgree : Prop :=
  (∀ i : IndexWord, (0 ≤ i.toInt ∧ i.toInt ≤ 15) ↔ i.toNat ≤ 15) ∧
  (∀ (i : IndexWord) (s : State) (v : Raw), s.cnt.toNat ≤ 24 →
    (exec (.getChannel i) s = .next { s with chIdx := i, result := .raw v } ↔ getChannelAt s.frame i.toInt = .ok v)) ∧
  (∀ (f : Frame) (i : Int), i < 0 ∨ 15 < i → getChannelAt f i = .error i)

/-- R112: bit_idx, first byte, shift and span of every channel. -/
def Obligations.ChannelTable : Prop :=
  (List.finRange 16).map (fun i => (bitIdx i, firstByte i, fieldShift i, spanBytes i)) =
    [(0, 1, 0, 2), (11, 2, 3, 2), (22, 3, 6, 3), (33, 5, 1, 2), (44, 6, 4, 2), (55, 7, 7, 3), (66, 9, 2, 2),
     (77, 10, 5, 2), (88, 12, 0, 2), (99, 13, 3, 2), (110, 14, 6, 3), (121, 16, 1, 2), (132, 17, 4, 2),
     (143, 18, 7, 3), (154, 20, 2, 2), (165, 21, 5, 2)]

/-- R113: the sixteen closed forms. -/
def Obligations.ChannelClosedForms : Prop :=
  ∀ f : Frame,
    let b := fun (k : Fin 25) => (f[k]).toNat
    (unpack f 0).toNat = (b 1 ||| ((b 2 &&& 0x07) <<< 8)) ∧
    (unpack f 1).toNat = ((b 2 >>> 3) ||| ((b 3 &&& 0x3F) <<< 5)) ∧
    (unpack f 2).toNat = ((b 3 >>> 6) ||| (b 4 <<< 2) ||| ((b 5 &&& 0x01) <<< 10)) ∧
    (unpack f 3).toNat = ((b 5 >>> 1) ||| ((b 6 &&& 0x0F) <<< 7)) ∧
    (unpack f 4).toNat = ((b 6 >>> 4) ||| ((b 7 &&& 0x7F) <<< 4)) ∧
    (unpack f 5).toNat = ((b 7 >>> 7) ||| (b 8 <<< 1) ||| ((b 9 &&& 0x03) <<< 9)) ∧
    (unpack f 6).toNat = ((b 9 >>> 2) ||| ((b 10 &&& 0x1F) <<< 6)) ∧
    (unpack f 7).toNat = ((b 10 >>> 5) ||| (b 11 <<< 3)) ∧
    (unpack f 8).toNat = (b 12 ||| ((b 13 &&& 0x07) <<< 8)) ∧
    (unpack f 9).toNat = ((b 13 >>> 3) ||| ((b 14 &&& 0x3F) <<< 5)) ∧
    (unpack f 10).toNat = ((b 14 >>> 6) ||| (b 15 <<< 2) ||| ((b 16 &&& 0x01) <<< 10)) ∧
    (unpack f 11).toNat = ((b 16 >>> 1) ||| ((b 17 &&& 0x0F) <<< 7)) ∧
    (unpack f 12).toNat = ((b 17 >>> 4) ||| ((b 18 &&& 0x7F) <<< 4)) ∧
    (unpack f 13).toNat = ((b 18 >>> 7) ||| (b 19 <<< 1) ||| ((b 20 &&& 0x03) <<< 9)) ∧
    (unpack f 14).toNat = ((b 20 >>> 2) ||| ((b 21 &&& 0x1F) <<< 6)) ∧
    (unpack f 15).toNat = ((b 21 >>> 5) ||| (b 22 <<< 3))

/-- R114: any span from byte k that covers the field gives the same raw value. -/
def Obligations.AnyCoveringSpanGivesTheSameChannel : Prop :=
  ∀ (f : Frame) (i : ChannelIndex) (n : Nat) (h : firstByte i + n ≤ 25), spanBytes i ≤ n →
    fieldOf (spanValue f n (firstByte i) h) (fieldShift i) = unpack f i

/-- R117, R118: a channel depends only on payload bits 11i..11i+10; so no channel and no pulse depends on bytes 0, 23
and 24. -/
def Obligations.ChannelDependsOnlyOnItsField : Prop :=
  (∀ (f g : Frame) (i : ChannelIndex),
    (∀ q : Fin 176, 11 * i.val ≤ q.val → q.val ≤ 11 * i.val + 10 → payloadBit f q = payloadBit g q) →
    unpack f i = unpack g i) ∧
  (∀ f g : Frame, (∀ k : Position, 1 ≤ k.val → k.val ≤ 22 → f[k] = g[k]) →
    (∀ i : ChannelIndex, unpack f i = unpack g i) ∧ pulsesOf f = pulsesOf g)

/-! ## SCALE and GET_CHANNELS -/

/-- R120: SCALE of every raw value at the default constants, with the floor shift; it completes whatever the state, `cnt` in
0..24 (R81). -/
def Obligations.ScaleGivesThePulseLength : Prop :=
  ∀ (raw : Raw) (s : State), s.cnt.toNat ≤ 24 → ∃ p : Pulse,
    exec (.scale raw) s = .next { s with result := .pulse p } ∧
    (p.toNat : Int) = Int.fdiv (((raw.toNat : Int) - 1024) * 5) 8 + 1520

/-- R121: the ranges of the intermediates and of the pulse at the default constants; the 12-bit result does not wrap. -/
def Obligations.ScaleStaysInRange : Prop :=
  ∀ raw : Raw, ∀ d m q : Int, d = (raw.toNat : Int) - 1024 → m = d * 5 → q = scaleShift Config.scale m →
    -1024 ≤ d ∧ d ≤ 1023 ∧ -5120 ≤ m ∧ m ≤ 5115 ∧ -640 ≤ q ∧ q ≤ 639 ∧
    scaleInt Config.scale raw.toNat = q + 1520 ∧ ((scale raw).toNat : Int) = q + 1520 ∧
    880 ≤ (scale raw).toNat ∧ (scale raw).toNat ≤ 2159

/-- R122: SCALE has the unsigned form. -/
def Obligations.ScaleUnsignedForm : Prop :=
  ∀ (raw : Raw) (s t : State), exec (.scale raw) s = .next t →
    t.result = .pulse (BitVec.ofNat 12 (880 + ((5 * raw.toNat) >>> 3))) ∧ 880 + ((5 * raw.toNat) >>> 3) < 2 ^ 12

/-- R123: the shape of the mapping, over the results of two SCALEs in any states. -/
def Obligations.ScaleShape : Prop :=
  ∀ (r r' : Raw) (s s' t t' : State) (p p' : Pulse), exec (.scale r) s = .next t → exec (.scale r') s' = .next t' →
    t.result = .pulse p → t'.result = .pulse p' →
    (r.toNat ≤ r'.toNat → p.toNat ≤ p'.toNat) ∧
    (r'.toNat = r.toNat + 8 → p'.toNat = p.toNat + 5) ∧
    (r'.toNat = r.toNat + 1 → p'.toNat = p.toNat + [0, 1, 0, 1, 1, 0, 1, 1].getD (r.toNat % 8) 0)

/-- U4, D15: the two readings of the shift differ exactly where raw is below 1024 and `raw - 1024` is no multiple of 8,
and there toward_zero is 1 more (over all integers). -/
def Obligations.RoundingReadingsDifferOnlyBelowTheCentre : Prop :=
  ∀ raw : Int,
    scaleInt { Config.scale with rounding := .towardZero } raw =
      scaleInt Config.scale raw + (if raw < 1024 ∧ (raw - 1024) % 8 ≠ 0 then 1 else 0)

/-- R126, R7: the pseudocode at any parameters, on integers, for both readings of the shift. -/
def Obligations.ScaleAtAnyParameters : Prop :=
  ∀ (p : ScaleParams) (raw : Int),
    scaleInt p raw =
      (match p.rounding with
       | .floor => Int.fdiv ((raw - p.offset) * p.mul) (2 ^ p.shift)
       | .towardZero => Int.tdiv ((raw - p.offset) * p.mul) (2 ^ p.shift)) + p.center

/-- R124: GET_CHANNELS gives SCALE of every channel in order, on the lanes of `pulse_out`; it completes whatever the state,
`cnt` in 0..24 (R81), and changes nothing. -/
def Obligations.GetChannelsScalesEveryChannel : Prop :=
  ∀ s : State, s.cnt.toNat ≤ 24 → ∃ lanes : Lanes,
    exec .getChannels s = .next { s with result := .pulses lanes } ∧
    ∀ i : ChannelIndex, lanes[i] = scale (unpack s.frame i) ∧
      s.pulseOut.extractLsb' (12 * i.val) 12 = lanes[i] ∧
      ∀ idx : IndexWord, State.pulseOut { s with chIdx := idx } = s.pulseOut

/-- R125: the two read paths agree for every channel. -/
def Obligations.BothReadPathsAgree : Prop :=
  ∀ (s : State) (i : IndexWord), i.toNat ≤ 15 →
    s.pulseOut.extractLsb' (12 * i.toNat) 12 = scale (State.chRaw { s with chIdx := i })

/-! ## Outputs and ordering -/

/-- R56: byte k of the frame register is `frame_out[8k+7:8k]`, and payload bit q is `frame_out[8+q]`. -/
def Obligations.FrameOutBusOrder : Prop :=
  ∀ s : State,
    (∀ k : Position, s.frameOut.extractLsb' (8 * k.val) 8 = s.frame[k]) ∧
    (∀ q : Fin 176, payloadBit s.frame q = s.frameOut.getLsbD (8 + q.val))

/-- R60, R119: reads complete, change no state element, and a new `ch_idx` changes only `ch_raw` and `ch_err`. -/
def Obligations.ReadsChangeNoState : Prop :=
  ∀ (i : Instr) (s : State), s.cnt.toNat ≤ 24 → ((∃ idx, i = .getChannel idx) ∨ i = .getChannels ∨ ∃ raw, i = .scale raw) →
    ∃ t, exec i s = .next t ∧ SameBlock s t ∧ t.stimulus = s.stimulus ∧
      t.outputs = { s.outputs with chRaw := t.chRaw, chErr := t.chErr } ∧
      ((∀ idx, i ≠ .getChannel idx) → t.outputs = s.outputs)

/-- R116: the decoder reads the frame register whatever `frame_valid` holds. -/
def Obligations.DecoderIgnoresFrameValid : Prop :=
  ∀ (s : State) (v : Bool),
    State.chRaw { s with frameValid := v } = s.chRaw ∧ State.chErr { s with frameValid := v } = s.chErr ∧
    State.pulseOut { s with frameValid := v } = s.pulseOut

/-- R62, R146, R165: in the latch cycle the outputs show the old frame, after the edge the new one with the strobe; an
out-of-range index in that cycle stands beside it. -/
def Obligations.LatchCycleShowsTheOldFrame : Prop :=
  ∀ (s : State) (rest : List Stimulus), s.cnt = 24 → s.stimulus = .stepWord 0x100 :: rest →
    (∀ k : Position, s.frameOut.extractLsb' (8 * k.val) 8 = s.frame[k]) ∧
    (∀ i : ChannelIndex, s.pulseOut.extractLsb' (12 * i.val) 12 = scale (unpack s.frame i)) ∧
    ∃ t, step s = .next t ∧ t.frameStrobe = true ∧ t.frameValid = true ∧ t.chErr = s.chErr ∧ t.stimulus = rest ∧
      (∀ k : Position, t.frameOut.extractLsb' (8 * k.val) 8 = if k.val = 24 then 0x00 else s.buf[k]) ∧
      (∀ i : ChannelIndex, t.pulseOut.extractLsb' (12 * i.val) 12 = scale (unpack (s.buf.set 24 0x00) i))

/-- R24, R25, R59: a step changes `frame` only by RESET or by a valid latch, and then whole; it clears `frame_valid` only
by RESET and sets it only by a valid latch. -/
def Obligations.FrameRegisterIsWrittenWhole : Prop :=
  ∀ s t : State, step s = .next t →
    (t.frame = s.frame ∧ t.frameValid = s.frameValid) ∨
    (∃ w rest, s.stimulus = .stepWord w :: rest ∧ w &&& 0x200 = 0x200 ∧
      t.frame = Vector.replicate 25 0x00 ∧ t.frameValid = false) ∨
    (∃ rest, s.stimulus = .stepWord 0x100 :: rest ∧ s.cnt = 24 ∧ t.frame = s.buf.set 24 0x00 ∧ t.frameValid = true)

/-! ## Programs -/

/-- R84: a program is encoded as its step words in order, with its format X words and observations beside the step they
follow, so that nothing is lost and their order stands; and it starts in the state after one RESET, whatever came before,
unless it names a start state. -/
def Obligations.ProgramIsStepWordsWithItsObservationsBesideThem : Prop :=
  (∀ items : List ProgramItem, (encodeProgram items).items = items ∧
    (encodeProgram items).steps.map (·.word) = stepWords items) ∧
  (∀ (pre : List ProgramItem) (w : StepWord) (os : List Beside) (post : List ProgramItem),
    (∀ o rest, post ≠ .beside o :: rest) →
    (encodeProgram (pre ++ .stepWord w :: (os.map .beside ++ post))).steps[(stepWords pre).length]? = some ⟨w, os⟩) ∧
  (∀ (p : List Statement) (before t : State) (v : Bool) (b : Byte), exec (.reset v b) before = .next t →
    (Program.mk none p).startState before = { t with stimulus := stimuli (assemble p) }) ∧
  (∀ (p : List Statement) (before t : State),
    (Program.mk (some t) p).startState before = { t with stimulus := stimuli (assemble p) })

/-- R82, R84: a CHECK takes no edge and drives nothing; it observes, at its own point of the program, the state that the
part of the program before it leaves, and the checks of a program hold exactly when each states the value there. -/
def Obligations.CheckObservesTheStateAtItsPoint : Prop :=
  (∀ (start : Option State) (pre post : List Statement) (name : Observable) (v : Nat) (before t : State),
    let n := (stimuli (assemble pre)).length
    let p := Program.mk start (pre ++ .check name v :: post)
    stimuli (assemble p.statements) = stimuli (assemble (pre ++ post)) ∧
    ⟨n, name, v⟩ ∈ p.checkPoints ∧
    (runSteps n ((Program.mk start pre).startState before) = .next t →
      p.stateAt before ⟨n, name, v⟩ = .next { t with stimulus := stimuli (assemble post) } ∧
      (p.checksHold before = true → t.observe name = v))) ∧
  (∀ (p : Program) (before : State), p.checksHold before = true ↔
    ∀ c ∈ p.checkPoints, ∃ t, p.stateAt before c = .next t ∧ t.observe c.name = c.v)

/-! ## Invariants and runs -/

/-- R29, R30, R31: the invariant holds in the state after reset. -/
def Obligations.ResetStateMeetsTheInvariant : Prop := Inv State.reset

/-- R29, R30, R31: every instruction, and so every step, keeps the invariant. -/
def Obligations.EveryStepKeepsTheInvariant : Prop :=
  (∀ (i : Instr) (s t : State), Inv s → exec i s = .next t → Inv t) ∧
  (∀ s t : State, Inv s → step s = .next t → Inv t)

/-- R105: with `cnt` in 0..24 every operation has a next state with `cnt` in 0..24, so no run stops. -/
def Obligations.NoRunStops : Prop :=
  (∀ (i : Instr) (s : State), s.cnt.toNat ≤ 24 → ∃ t, exec i s = .next t ∧ t.cnt.toNat ≤ 24) ∧
  (∀ (k : Nat) (s : State), s.cnt.toNat ≤ 24 → ∃ t, runSteps k s = .next t ∧ t.cnt.toNat ≤ 24)

/-- R32: after `frame_strobe = 1`, the next 24 edges, whatever their step words, leave it 0. -/
def Obligations.StrobesAreAtLeast25CyclesApart : Prop :=
  ∀ (s : State) (ws : List StepWord), Inv s → s.frameStrobe = true → 1 ≤ ws.length → ws.length ≤ 24 →
    ∃ t, runSteps ws.length { s with stimulus := ws.map .stepWord } = .next t ∧ t.frameStrobe = false

/-- R166: a latched frame stays through the 24 edges after its latch, unless one of them is RESET. -/
def Obligations.LatchedFrameStaysForItsCopyOutWindow : Prop :=
  ∀ (s : State) (ws : List StepWord), Inv s → s.frameStrobe = true → ws.length ≤ 24 →
    (∀ w ∈ ws, w &&& 0x200 = 0x000) →
    ∃ t, runSteps ws.length { s with stimulus := ws.map .stepWord } = .next t ∧
      t.frame = s.frame ∧ t.frameValid = true ∧ t.frameOut = s.frameOut ∧ t.pulseOut = s.pulseOut

/-- R30, R170, D9: bytes of `buf` that the current candidate has not written never reach an output: two states that
differ in nothing else stay so, with the same outputs, however many steps are taken and whatever is driven. -/
def Obligations.UnwrittenBufferIsNeverObserved : Prop :=
  ∀ (k : Nat) (s t : State), s.cnt.toNat ≤ 24 → SameButUnwritten s t →
    ∃ s' t', runSteps k s = .next s' ∧ runSteps k t = .next t' ∧ SameButUnwritten s' t' ∧
      s'.outputs = t'.outputs ∧ emissions k s = emissions k t
end

