-- ==== Sys2Proof/Laws/State.lean ====
section
/-! SUPPORT. One lemma per field per update of the state, and the named updates' effect on every field. -/

namespace Sys2Proof.Machine

@[simp] theorem setCnt_cnt (s : State) (n : Counter) : (s.setCnt n).cnt = n := rfl
@[simp] theorem setCnt_buf (s : State) (n : Counter) : (s.setCnt n).buf = s.buf := rfl
@[simp] theorem setCnt_frame (s : State) (n : Counter) : (s.setCnt n).frame = s.frame := rfl
@[simp] theorem setCnt_frameValid (s : State) (n : Counter) : (s.setCnt n).frameValid = s.frameValid := rfl
@[simp] theorem setCnt_frameStrobe (s : State) (n : Counter) : (s.setCnt n).frameStrobe = s.frameStrobe := rfl
@[simp] theorem setCnt_chIdx (s : State) (n : Counter) : (s.setCnt n).chIdx = s.chIdx := rfl
@[simp] theorem setCnt_stimulus (s : State) (n : Counter) : (s.setCnt n).stimulus = s.stimulus := rfl
@[simp] theorem setCnt_result (s : State) (n : Counter) : (s.setCnt n).result = s.result := rfl

@[simp] theorem setBuf_cnt (s : State) (f : Frame) : (s.setBuf f).cnt = s.cnt := rfl
@[simp] theorem setBuf_buf (s : State) (f : Frame) : (s.setBuf f).buf = f := rfl
@[simp] theorem setBuf_frame (s : State) (f : Frame) : (s.setBuf f).frame = s.frame := rfl
@[simp] theorem setBuf_frameValid (s : State) (f : Frame) : (s.setBuf f).frameValid = s.frameValid := rfl
@[simp] theorem setBuf_frameStrobe (s : State) (f : Frame) : (s.setBuf f).frameStrobe = s.frameStrobe := rfl
@[simp] theorem setBuf_chIdx (s : State) (f : Frame) : (s.setBuf f).chIdx = s.chIdx := rfl
@[simp] theorem setBuf_stimulus (s : State) (f : Frame) : (s.setBuf f).stimulus = s.stimulus := rfl
@[simp] theorem setBuf_result (s : State) (f : Frame) : (s.setBuf f).result = s.result := rfl

@[simp] theorem setFrame_cnt (s : State) (f : Frame) : (s.setFrame f).cnt = s.cnt := rfl
@[simp] theorem setFrame_buf (s : State) (f : Frame) : (s.setFrame f).buf = s.buf := rfl
@[simp] theorem setFrame_frame (s : State) (f : Frame) : (s.setFrame f).frame = f := rfl
@[simp] theorem setFrame_frameValid (s : State) (f : Frame) : (s.setFrame f).frameValid = s.frameValid := rfl
@[simp] theorem setFrame_frameStrobe (s : State) (f : Frame) : (s.setFrame f).frameStrobe = s.frameStrobe := rfl
@[simp] theorem setFrame_chIdx (s : State) (f : Frame) : (s.setFrame f).chIdx = s.chIdx := rfl
@[simp] theorem setFrame_stimulus (s : State) (f : Frame) : (s.setFrame f).stimulus = s.stimulus := rfl
@[simp] theorem setFrame_result (s : State) (f : Frame) : (s.setFrame f).result = s.result := rfl

@[simp] theorem setFrameValid_cnt (s : State) (v : Bool) : (s.setFrameValid v).cnt = s.cnt := rfl
@[simp] theorem setFrameValid_buf (s : State) (v : Bool) : (s.setFrameValid v).buf = s.buf := rfl
@[simp] theorem setFrameValid_frame (s : State) (v : Bool) : (s.setFrameValid v).frame = s.frame := rfl
@[simp] theorem setFrameValid_frameValid (s : State) (v : Bool) : (s.setFrameValid v).frameValid = v := rfl
@[simp] theorem setFrameValid_frameStrobe (s : State) (v : Bool) : (s.setFrameValid v).frameStrobe = s.frameStrobe := rfl
@[simp] theorem setFrameValid_chIdx (s : State) (v : Bool) : (s.setFrameValid v).chIdx = s.chIdx := rfl
@[simp] theorem setFrameValid_stimulus (s : State) (v : Bool) : (s.setFrameValid v).stimulus = s.stimulus := rfl
@[simp] theorem setFrameValid_result (s : State) (v : Bool) : (s.setFrameValid v).result = s.result := rfl

@[simp] theorem setFrameStrobe_cnt (s : State) (v : Bool) : (s.setFrameStrobe v).cnt = s.cnt := rfl
@[simp] theorem setFrameStrobe_buf (s : State) (v : Bool) : (s.setFrameStrobe v).buf = s.buf := rfl
@[simp] theorem setFrameStrobe_frame (s : State) (v : Bool) : (s.setFrameStrobe v).frame = s.frame := rfl
@[simp] theorem setFrameStrobe_frameValid (s : State) (v : Bool) : (s.setFrameStrobe v).frameValid = s.frameValid := rfl
@[simp] theorem setFrameStrobe_frameStrobe (s : State) (v : Bool) : (s.setFrameStrobe v).frameStrobe = v := rfl
@[simp] theorem setFrameStrobe_chIdx (s : State) (v : Bool) : (s.setFrameStrobe v).chIdx = s.chIdx := rfl
@[simp] theorem setFrameStrobe_stimulus (s : State) (v : Bool) : (s.setFrameStrobe v).stimulus = s.stimulus := rfl
@[simp] theorem setFrameStrobe_result (s : State) (v : Bool) : (s.setFrameStrobe v).result = s.result := rfl

@[simp] theorem setChIdx_cnt (s : State) (i : IndexWord) : (s.setChIdx i).cnt = s.cnt := rfl
@[simp] theorem setChIdx_buf (s : State) (i : IndexWord) : (s.setChIdx i).buf = s.buf := rfl
@[simp] theorem setChIdx_frame (s : State) (i : IndexWord) : (s.setChIdx i).frame = s.frame := rfl
@[simp] theorem setChIdx_frameValid (s : State) (i : IndexWord) : (s.setChIdx i).frameValid = s.frameValid := rfl
@[simp] theorem setChIdx_frameStrobe (s : State) (i : IndexWord) : (s.setChIdx i).frameStrobe = s.frameStrobe := rfl
@[simp] theorem setChIdx_chIdx (s : State) (i : IndexWord) : (s.setChIdx i).chIdx = i := rfl
@[simp] theorem setChIdx_stimulus (s : State) (i : IndexWord) : (s.setChIdx i).stimulus = s.stimulus := rfl
@[simp] theorem setChIdx_result (s : State) (i : IndexWord) : (s.setChIdx i).result = s.result := rfl

@[simp] theorem setStimulus_cnt (s : State) (xs : List Stimulus) : (s.setStimulus xs).cnt = s.cnt := rfl
@[simp] theorem setStimulus_buf (s : State) (xs : List Stimulus) : (s.setStimulus xs).buf = s.buf := rfl
@[simp] theorem setStimulus_frame (s : State) (xs : List Stimulus) : (s.setStimulus xs).frame = s.frame := rfl
@[simp] theorem setStimulus_frameValid (s : State) (xs : List Stimulus) : (s.setStimulus xs).frameValid = s.frameValid := rfl
@[simp] theorem setStimulus_frameStrobe (s : State) (xs : List Stimulus) : (s.setStimulus xs).frameStrobe = s.frameStrobe := rfl
@[simp] theorem setStimulus_chIdx (s : State) (xs : List Stimulus) : (s.setStimulus xs).chIdx = s.chIdx := rfl
@[simp] theorem setStimulus_stimulus (s : State) (xs : List Stimulus) : (s.setStimulus xs).stimulus = xs := rfl
@[simp] theorem setStimulus_result (s : State) (xs : List Stimulus) : (s.setStimulus xs).result = s.result := rfl

@[simp] theorem setResult_cnt (s : State) (r : Result) : (s.setResult r).cnt = s.cnt := rfl
@[simp] theorem setResult_buf (s : State) (r : Result) : (s.setResult r).buf = s.buf := rfl
@[simp] theorem setResult_frame (s : State) (r : Result) : (s.setResult r).frame = s.frame := rfl
@[simp] theorem setResult_frameValid (s : State) (r : Result) : (s.setResult r).frameValid = s.frameValid := rfl
@[simp] theorem setResult_frameStrobe (s : State) (r : Result) : (s.setResult r).frameStrobe = s.frameStrobe := rfl
@[simp] theorem setResult_chIdx (s : State) (r : Result) : (s.setResult r).chIdx = s.chIdx := rfl
@[simp] theorem setResult_stimulus (s : State) (r : Result) : (s.setResult r).stimulus = s.stimulus := rfl
@[simp] theorem setResult_result (s : State) (r : Result) : (s.setResult r).result = r := rfl

/-! `writeBuf` writes one byte of `buf`. -/

@[simp] theorem writeBuf_cnt (s : State) (k : Position) (b : Byte) : (s.writeBuf k b).cnt = s.cnt := rfl
@[simp] theorem writeBuf_buf (s : State) (k : Position) (b : Byte) : (s.writeBuf k b).buf = s.buf.set k b := rfl
@[simp] theorem writeBuf_frame (s : State) (k : Position) (b : Byte) : (s.writeBuf k b).frame = s.frame := rfl
@[simp] theorem writeBuf_frameValid (s : State) (k : Position) (b : Byte) : (s.writeBuf k b).frameValid = s.frameValid := rfl
@[simp] theorem writeBuf_frameStrobe (s : State) (k : Position) (b : Byte) : (s.writeBuf k b).frameStrobe = s.frameStrobe := rfl
@[simp] theorem writeBuf_chIdx (s : State) (k : Position) (b : Byte) : (s.writeBuf k b).chIdx = s.chIdx := rfl
@[simp] theorem writeBuf_stimulus (s : State) (k : Position) (b : Byte) : (s.writeBuf k b).stimulus = s.stimulus := rfl
@[simp] theorem writeBuf_result (s : State) (k : Position) (b : Byte) : (s.writeBuf k b).result = s.result := rfl

/-! `raiseOutOfRange` changes no state element (R141). -/

@[simp] theorem raiseOutOfRange_cnt (s : State) (i : IndexWord) : (s.raiseOutOfRange i).cnt = s.cnt := rfl
@[simp] theorem raiseOutOfRange_buf (s : State) (i : IndexWord) : (s.raiseOutOfRange i).buf = s.buf := rfl
@[simp] theorem raiseOutOfRange_frame (s : State) (i : IndexWord) : (s.raiseOutOfRange i).frame = s.frame := rfl
@[simp] theorem raiseOutOfRange_frameValid (s : State) (i : IndexWord) : (s.raiseOutOfRange i).frameValid = s.frameValid := rfl
@[simp] theorem raiseOutOfRange_frameStrobe (s : State) (i : IndexWord) : (s.raiseOutOfRange i).frameStrobe = s.frameStrobe := rfl
@[simp] theorem raiseOutOfRange_chIdx (s : State) (i : IndexWord) : (s.raiseOutOfRange i).chIdx = i := rfl
@[simp] theorem raiseOutOfRange_stimulus (s : State) (i : IndexWord) : (s.raiseOutOfRange i).stimulus = s.stimulus := rfl
@[simp] theorem raiseOutOfRange_result (s : State) (i : IndexWord) : (s.raiseOutOfRange i).result = .outOfRange i := rfl

end Sys2Proof.Machine
end

