-- ==== Sys2Proof/Laws/Ops.lean ====
section
/-! SUPPORT. What the counter's guard answers, what fetching and placing a stimulus do, and the results' emitted frames. -/

namespace Sys2Proof.Machine

theorem whenCounterInRange_of_le {s : State} (h : s.cnt.toNat ≤ 24) (a : Answer) : s.whenCounterInRange a = a := if_pos h

theorem whenCounterInRange_of_gt {s : State} (h : 24 < s.cnt.toNat) (a : Answer) :
    s.whenCounterInRange a = .fault .counterUnreachable := if_neg (by omega)

/-- A guarded operation answers a next state exactly when `cnt` has a meaning and the operation answers it. -/
theorem whenCounterInRange_next {s t : State} {a : Answer} :
    s.whenCounterInRange a = .next t ↔ s.cnt.toNat ≤ 24 ∧ a = .next t := by
  by_cases h : s.cnt.toNat ≤ 24
  · simp [whenCounterInRange_of_le h, h]
  · simp [whenCounterInRange_of_gt (Nat.lt_of_not_le h), h]

/-- The guard looks at `cnt` alone. -/
theorem whenCounterInRange_congr {s s' : State} (h : s'.cnt = s.cnt) (a : Answer) :
    s'.whenCounterInRange a = s.whenCounterInRange a := by
  simp [State.whenCounterInRange, h]

theorem fetch_nil {s : State} (h : s.stimulus = []) : fetch s = (.nop 0x00, s) := by
  simp [fetch, h]

theorem fetch_cons {s : State} {x : Stimulus} {rest : List Stimulus} (h : s.stimulus = x :: rest) :
    fetch s = (decode x, s.setStimulus rest) := by
  simp [fetch, h]

/-- Fetching changes the stimulus only: it drops its oldest entry. -/
theorem fetch_state (s : State) : (fetch s).2 = s.setStimulus s.stimulus.tail := by
  rcases h : s.stimulus with _ | ⟨x, rest⟩
  · rw [fetch_nil h]; exact congrArg (fun xs => { s with stimulus := xs }) h
  · rw [fetch_cons h]; rfl

theorem placeWord_ok {s : State} {nbits w : Nat} {x : Stimulus} (h : wordStimulus nbits w = .ok x) :
    placeWord s nbits w = s.setStimulus (x :: s.stimulus) := by
  simp [placeWord, h]

theorem placeWord_error {s : State} {nbits w : Nat} {e : DecodeError} (h : wordStimulus nbits w = .error e) :
    placeWord s nbits w = s := by
  simp [placeWord, h]

@[simp] theorem emitted_noFrame : emitted .noFrame = [] := rfl
@[simp] theorem emitted_someFrame (f : Frame) : emitted (.someFrame f) = [f] := rfl
@[simp] theorem emitted_frames (fs : List Frame) : emitted (.frames fs) = fs := rfl

end Sys2Proof.Machine
end

