-- ==== Sys2Proof/Laws/Assembler.lean ====
section
/-! SUPPORT. What accepting a byte can do, said once (40_frame_assembler.md R90), and the recursion of DRAIN. -/

namespace Sys2Proof.Machine

/-! RESET's writes, field by field (R91, R33). -/

@[simp] theorem resetEdge_cnt (s : State) : (resetEdge s).cnt = 0 := rfl
@[simp] theorem resetEdge_buf (s : State) : (resetEdge s).buf = s.buf := rfl
@[simp] theorem resetEdge_frame (s : State) : (resetEdge s).frame = zeroFrame := rfl
@[simp] theorem resetEdge_frameValid (s : State) : (resetEdge s).frameValid = false := rfl
@[simp] theorem resetEdge_frameStrobe (s : State) : (resetEdge s).frameStrobe = false := rfl
@[simp] theorem resetEdge_chIdx (s : State) : (resetEdge s).chIdx = s.chIdx := rfl
@[simp] theorem resetEdge_stimulus (s : State) : (resetEdge s).stimulus = s.stimulus := rfl
@[simp] theorem resetEdge_result (s : State) : (resetEdge s).result = .noFrame := rfl

/-- Everything `feedByte` can answer when it answers a next state: one of the five cases of R90. -/
theorem feedByte_cases {b : Byte} {s t : State} (h : feedByte b s = .next t) :
    (s.cnt.toNat = 0 ∧ b = Config.startMarker ∧ t = startCandidate b s) ∨
    (s.cnt.toNat = 0 ∧ b ≠ Config.startMarker ∧ t = quietEdge s) ∨
    (∃ (_ : s.cnt.toNat ≠ 0) (hn : s.cnt.toNat < 24), t = collectByte ⟨s.cnt.toNat, by omega⟩ b s) ∨
    (s.cnt.toNat = 24 ∧ b = Config.endMarker ∧ t = latchCandidate b s) ∨
    (s.cnt.toNat = 24 ∧ b ≠ Config.endMarker ∧ t = discardCandidate b s) := by
  obtain ⟨hc, h⟩ := whenCounterInRange_next.mp h
  split at h
  · split at h <;> simp_all [isStart]
  · split at h
    · simp_all
    · split at h <;> simp_all [isEnd] <;> omega

/-- With a counter that has a meaning, a byte is always accepted. -/
theorem feedByte_completes (b : Byte) {s : State} (h : s.cnt.toNat ≤ 24) : ∃ t, feedByte b s = .next t := by
  simp only [feedByte, whenCounterInRange_of_le h]
  split
  · split <;> exact ⟨_, rfl⟩
  · split
    · exact ⟨_, rfl⟩
    · split <;> exact ⟨_, rfl⟩

/-- `feedByte` stops only on a counter value above 24, and only by this fault. -/
theorem feedByte_fault {b : Byte} {s : State} {r : Fault} (h : feedByte b s = .fault r) :
    24 < s.cnt.toNat ∧ r = .counterUnreachable := by
  by_cases hc : s.cnt.toNat ≤ 24
  · obtain ⟨t, ht⟩ := feedByte_completes b hc
    rw [ht] at h; cases h
  · rw [feedByte, whenCounterInRange_of_gt (Nat.lt_of_not_le hc)] at h
    cases h; exact ⟨Nat.lt_of_not_le hc, rfl⟩

theorem feedByte_not_refused {b : Byte} {s : State} {r : Refusal} : feedByte b s ≠ .refused r := by
  intro h
  by_cases hc : s.cnt.toNat ≤ 24
  · obtain ⟨t, ht⟩ := feedByte_completes b hc
    rw [ht] at h; cases h
  · rw [feedByte, whenCounterInRange_of_gt (Nat.lt_of_not_le hc)] at h; cases h

/-- Accepting a byte touches no input: `ch_idx` and the pending stimulus are as before. -/
theorem feedByte_keeps_inputs {b : Byte} {s t : State} (h : feedByte b s = .next t) :
    t.chIdx = s.chIdx ∧ t.stimulus = s.stimulus := by
  rcases feedByte_cases h with ⟨_, _, rfl⟩ | ⟨_, _, rfl⟩ | ⟨_, _, rfl⟩ | ⟨_, _, rfl⟩ | ⟨_, _, rfl⟩ <;> exact ⟨rfl, rfl⟩

/-- Accepting a byte reads neither the inputs, nor the strobe, nor the last result (R105). -/
theorem feedByte_reads_no_input (b : Byte) (s : State) (xs : List Stimulus) (r : Result) (i : IndexWord) (v : Bool) :
    feedByte b { s with stimulus := xs, result := r, chIdx := i, frameStrobe := v } =
      match feedByte b s with
      | .next t => .next { t with stimulus := xs, chIdx := i }
      | .fault e => .fault e
      | .refused e => .refused e := by
  by_cases hc : s.cnt.toNat ≤ 24
  · simp only [feedByte, State.whenCounterInRange, if_pos hc]
    split
    · split <;> rfl
    · split
      · rfl
      · split <;> rfl
  · simp only [feedByte, State.whenCounterInRange, if_neg hc]

theorem drainFrom_nil (out : List Frame) (s : State) : drainFrom [] out s = .next (s.setResult (.frames out)) := rfl

/-- A DRAIN of one more byte goes on from the state its first FEED gives. -/
theorem drainFrom_cons {b : Byte} {bs : List Byte} {out : List Frame} {s t : State} (h : feedByte b s = .next t) :
    drainFrom (b :: bs) out s = drainFrom bs (out ++ emitted t.result) t := by
  simp [drainFrom, h]

/-- A DRAIN that answers a next state fed its first byte and went on from there. -/
theorem drainFrom_cons_next {b : Byte} {bs : List Byte} {out : List Frame} {s u : State}
    (h : drainFrom (b :: bs) out s = .next u) :
    ∃ t, feedByte b s = .next t ∧ drainFrom bs (out ++ emitted t.result) t = .next u := by
  rcases hf : feedByte b s with t | r | r
  · exact ⟨t, rfl, drainFrom_cons hf ▸ h⟩
  · simp [drainFrom, hf] at h
  · simp [drainFrom, hf] at h

/-- What a DRAIN that answers a next state did: its FEEDs in turn (R100). -/
theorem execDrain_next {bytes : List Byte} {s t : State} :
    execDrain bytes s = .next t ↔ s.cnt.toNat ≤ 24 ∧ drainFrom bytes [] s = .next t := whenCounterInRange_next

end Sys2Proof.Machine
end

