-- ==== Sys2Proof/Laws/Decode.lean ====
section
/-! SUPPORT. The fields of an encoded step word (30_encoding.md R71) and the match-and-mask tests read as its bits R and V. -/

namespace Sys2Proof

@[simp] theorem stepR_encodeStep (r v : Bool) (b : Byte) : stepR (encodeStep r v b) = r := by
  cases r <;> cases v <;> simp [stepR, encodeStep]

@[simp] theorem stepV_encodeStep (r v : Bool) (b : Byte) : stepV (encodeStep r v b) = v := by
  cases r <;> cases v <;> simp [stepV, encodeStep]

theorem low_bits_clear (r v : Bool) (i : Nat) (hi : i < 8) :
    ((if r then 0x200 else 0x000) ||| (if v then 0x100 else 0x000) : StepWord).getLsbD i = false := by
  have h : ∀ (r v : Bool), ∀ i < 8, ((if r then 0x200 else 0x000) ||| (if v then 0x100 else 0x000) : StepWord).getLsbD i = false := by
    decide
  exact h r v i hi

@[simp] theorem stepB_encodeStep (r v : Bool) (b : Byte) : stepB (encodeStep r v b) = b := by
  refine BitVec.eq_of_getLsbD_eq fun i hi => ?_
  rw [stepB, BitVec.getLsbD_extractLsb', encodeStep, BitVec.getLsbD_or, Nat.zero_add, low_bits_clear r v i hi]
  simp [hi, show i < 10 by omega]

/-- The test `w & 0x200 = 0x200` of RESET is the bit R (R72). -/
theorem resetMatch_iff (w : StepWord) : w &&& 0x200 = 0x200 ↔ stepR w = true := by
  constructor
  · intro h
    simpa [stepR] using congrArg (fun x => BitVec.getLsbD x 9) h
  · intro h
    refine BitVec.eq_of_getLsbD_eq fun i hi => ?_
    rw [BitVec.getLsbD_and]
    interval_cases i <;> simp_all [stepR]

/-- The test `w & 0x300 = 0x100` of FEED is R clear and V set (R72). -/
theorem feedMatch_iff (w : StepWord) : w &&& 0x300 = 0x100 ↔ stepR w = false ∧ stepV w = true := by
  constructor
  · intro h
    have h9 := congrArg (fun x => BitVec.getLsbD x 9) h
    have h8 := congrArg (fun x => BitVec.getLsbD x 8) h
    simp at h9 h8
    simp [stepR, stepV, h9, h8]
  · rintro ⟨h9, h8⟩
    refine BitVec.eq_of_getLsbD_eq fun i hi => ?_
    rw [BitVec.getLsbD_and]
    interval_cases i <;> simp_all [stepR, stepV]

/-- The operation map read by its bits (R72). -/
theorem decodeStep_byBits (w : StepWord) :
    decodeStep w =
      if stepR w then .reset (stepV w) (stepB w) else if stepV w then .feed (stepB w) else .nop (stepB w) := by
  unfold decodeStep
  rw [if_congr (resetMatch_iff w) rfl rfl]
  by_cases hr : stepR w = true
  · simp [hr]
  · rw [if_neg hr, if_neg hr, if_congr (feedMatch_iff w) rfl rfl]
    simp [hr]

end Sys2Proof
end

