-- ==== Sys2Proof/Laws/Decoder.lean ====
section
/-! SUPPORT. Bit-level facts of the channel decoder and the output buses: which bit of a frame each bit of an assembled
span, a packed bus and an index comes from. -/

namespace Sys2Proof.Machine

theorem channelOf_inRange {i : IndexWord} (h : i.toNat < 16) : channelOf i = some ⟨i.toNat, h⟩ := by
  simp [channelOf, h]

theorem channelOf_outOfRange {i : IndexWord} (h : 15 < i.toNat) : channelOf i = none := by
  simp [channelOf]; omega

/-- Bit p of a span assembled from position k is bit `p % 8` of byte `k + p / 8` (R55). -/
theorem spanValue_testBit (f : Frame) :
    ∀ (n k : Nat) (h : k + n ≤ 25) (p : Nat) (hp : p < 8 * n),
      (spanValue f n k h).testBit p = (f[k + p / 8]'(by omega)).getLsbD (p % 8)
  | 0, _, _, _, hp => by omega
  | n + 1, k, h, p, hp => by
    by_cases hlt : p < 8
    · have h0 : p / 8 = 0 := by omega
      have hm : p % 8 = p := by omega
      simp [spanValue, Nat.testBit_shiftLeft, show ¬ 8 ≤ p by omega, h0, hm, BitVec.getLsbD]
    · have ih := spanValue_testBit f n (k + 1) (by omega) (p - 8) (by omega)
      have hq : (p - 8) / 8 + 1 = p / 8 := by omega
      have hm : (p - 8) % 8 = p % 8 := by omega
      have hk : k + 1 + (p - 8) / 8 = k + p / 8 := by omega
      have hz : (f[k]'(by omega)).toNat.testBit p = false := BitVec.testBit_toNat _ ▸ BitVec.getLsbD_of_ge _ _ (by omega)
      simp only [hk, hm] at ih
      simp [spanValue, Nat.testBit_shiftLeft, show 8 ≤ p by omega, ih, hz]

/-- Field k of a packed list is its k-th entry (R56, R124). -/
theorem packLow_field (w : Nat) (xs : List (BitVec w)) (k : Nat) (hk : k < xs.length) :
    packLow w xs / 2 ^ (w * k) % 2 ^ w = xs[k].toNat := by
  induction xs generalizing k with
  | nil => simp at hk
  | cons x xs ih =>
    cases k with
    | zero => simp [packLow, Nat.mod_eq_of_lt x.isLt]
    | succ k =>
      have hx : (x.toNat + 2 ^ w * packLow w xs) / 2 ^ w = packLow w xs := by
        rw [Nat.add_mul_div_left _ _ (Nat.two_pow_pos w), Nat.div_eq_of_lt x.isLt, Nat.zero_add]
      have hp : w * (k + 1) = w + w * k := by rw [Nat.mul_succ, Nat.add_comm]
      simp only [packLow, hp, Nat.pow_add, ← Nat.div_div_eq_div_mul, hx]
      simpa using ih k (by simpa using hk)

/-- A packed list of n entries fits in n fields. -/
theorem packLow_lt (w : Nat) (xs : List (BitVec w)) : packLow w xs < 2 ^ (w * xs.length) := by
  induction xs with
  | nil => simp [packLow]
  | cons x xs ih =>
    have hx := x.isLt
    have hp : w * (xs.length + 1) = w + w * xs.length := by rw [Nat.mul_succ, Nat.add_comm]
    simp only [packLow, List.length_cons, hp, Nat.pow_add]
    calc x.toNat + 2 ^ w * packLow w xs
        < 2 ^ w + 2 ^ w * packLow w xs := by omega
      _ = 2 ^ w * (packLow w xs + 1) := by ring
      _ ≤ 2 ^ w * 2 ^ (w * xs.length) := Nat.mul_le_mul_left _ ih

@[simp] theorem pulsesOf_get (f : Frame) (i : ChannelIndex) : (pulsesOf f)[i] = scale (unpack f i) := by
  simp [pulsesOf]

end Sys2Proof.Machine
end

