-- ==== Sys2Proof/Laws/PerInstr.lean ====
section
/-! SUPPORT. Facts about every instruction as syntax, one lemma per constructor. -/

namespace Sys2Proof.Laws

/-- The stimuli of an operation are of the format spec/opcode_table.json gives its row: S for RESET, FEED, NOP and the
FEEDs of a DRAIN, X for GET_CHANNEL, no word for GET_CHANNELS and SCALE. -/
def TableFormat.fits (i : Instr) (x : Stimulus) : Bool :=
  match x with
  | .stepWord w =>
    match i with
    | .reset _ _ => stepR w
    | .feed _ => !stepR w && stepV w
    | .nop _ => !stepR w && !stepV w
    | .getChannel _ => false
    | .getChannels => false
    | .scale _ => false
    | .drain _ => !stepR w && stepV w
  | .indexWord _ =>
    match i with
    | .getChannel _ => true
    | _ => false
  | .readPulses =>
    match i with
    | .getChannels => true
    | _ => false

def TableFormat.Statement (i : Instr) : Prop := ∀ x ∈ encode i, TableFormat.fits i x = true

theorem TableFormat.reset (v : Bool) (b : Byte) : TableFormat.Statement (.reset v b) :=
  List.forall_mem_singleton.mpr (stepR_encodeStep true v b)

theorem TableFormat.feed (b : Byte) : TableFormat.Statement (.feed b) :=
  List.forall_mem_singleton.mpr (by simp only [fits, stepR_encodeStep, stepV_encodeStep]; rfl)

theorem TableFormat.nop (b : Byte) : TableFormat.Statement (.nop b) :=
  List.forall_mem_singleton.mpr (by simp only [fits, stepR_encodeStep, stepV_encodeStep]; rfl)

theorem TableFormat.getChannel (i : IndexWord) : TableFormat.Statement (.getChannel i) :=
  List.forall_mem_singleton.mpr rfl

theorem TableFormat.getChannels : TableFormat.Statement .getChannels :=
  List.forall_mem_singleton.mpr rfl

theorem TableFormat.scale (raw : Raw) : TableFormat.Statement (.scale raw) :=
  fun _ h => absurd h List.not_mem_nil

theorem TableFormat.drain (bytes : List Byte) : TableFormat.Statement (.drain bytes) := by
  intro x h
  obtain ⟨b, -, rfl⟩ := List.mem_map.mp h
  simp only [fits, stepR_encodeStep, stepV_encodeStep]; rfl

end Sys2Proof.Laws
end

