-- ==== Sys2Proof/Laws/Run.lean ====
section
/-! SUPPORT. Runs of the machine one step at a time, and the machine as the host runs it. -/

namespace Sys2Proof.Machine

/-- Runs as Safety.lean words them are the host's runs of `core`. -/
theorem runSteps_eq_core_run (k : Nat) (s : State) : runSteps k s = Sys2Proof.core.run k s := by
  induction k generalizing s with
  | zero => rfl
  | succ k ih =>
    rcases h : step s with t | r | r
    · have h' : Sys2Proof.core.step s = .next t := h
      simp only [runSteps, Host.Core.run, h, h']; exact ih t
    · have h' : Sys2Proof.core.step s = .fault r := h
      simp only [runSteps, Host.Core.run, h, h']; rfl
    · have h' : Sys2Proof.core.step s = .refused r := h
      simp only [runSteps, Host.Core.run, h, h']; rfl

@[simp] theorem runSteps_zero (s : State) : runSteps 0 s = .next s := rfl

theorem runSteps_next {k : Nat} {s t : State} (h : step s = .next t) : runSteps (k + 1) s = runSteps k t := by
  simp [runSteps, h]

@[simp] theorem emissions_zero (s : State) : emissions 0 s = [] := rfl

theorem emissions_next {k : Nat} {s t : State} (h : step s = .next t) :
    emissions (k + 1) s = emitted t.result ++ emissions k t := by
  simp [emissions, h]

/-- A step of the edge or observation at the head of the stimulus. -/
theorem step_head (s : State) (x : Stimulus) (rest : List Stimulus) :
    step (s.setStimulus (x :: rest)) = exec (decode x) (s.setStimulus rest) := rfl

/-- Splitting a run: `j + k` steps are `k` steps after `j` that answer a next state. -/
theorem runSteps_add {j k : Nat} {s t : State} (h : runSteps j s = .next t) : runSteps (j + k) s = runSteps k t := by
  induction j generalizing s with
  | zero => cases h; rw [Nat.zero_add]
  | succ j ih =>
    rw [Nat.succ_add]
    rcases hs : step s with u | r | r
    · rw [runSteps_next hs] at h ⊢; exact ih h
    · simp [runSteps, hs] at h
    · simp [runSteps, hs] at h

/-- Everything an edge of a step word can do: RESET, the acceptance of a byte, or a quiet edge (R72). -/
theorem edge_cases (w : StepWord) (s : State) :
    (stepR w = true ∧ exec (decodeStep w) s = execReset (stepV w) (stepB w) s) ∨
    (stepR w = false ∧ stepV w = true ∧ exec (decodeStep w) s = feedByte (stepB w) s) ∨
    (stepR w = false ∧ stepV w = false ∧ exec (decodeStep w) s = execNop (stepB w) s) := by
  rw [decodeStep_byBits]
  cases hr : stepR w <;> cases hv : stepV w <;> simp [exec, execFeed]

/-- Every operation but RESET stops on a counter value that has no meaning (R81, U2). -/
theorem exec_counterUnreachable {i : Instr} {s : State} (hi : ∀ v b, i ≠ .reset v b) (h : 24 < s.cnt.toNat) :
    exec i s = .fault .counterUnreachable := by
  cases i with
  | reset v b => exact absurd rfl (hi v b)
  | feed b => exact whenCounterInRange_of_gt h _
  | nop b => exact whenCounterInRange_of_gt h _
  | getChannel i => exact whenCounterInRange_of_gt h _
  | getChannels => exact whenCounterInRange_of_gt h _
  | scale raw => exact whenCounterInRange_of_gt h _
  | drain bytes => exact whenCounterInRange_of_gt h _

end Sys2Proof.Machine
end

