-- ==== Sys2Proof/Laws/Program.lean ====
section
/-! SUPPORT. The items of a program, where its CHECKs stand, and that no operation reads the pending stimulus. -/

namespace Sys2Proof.Machine

@[simp] theorem assemble_nil : assemble [] = [] := rfl
@[simp] theorem assemble_append (p q : List Statement) : assemble (p ++ q) = assemble p ++ assemble q :=
  List.flatMap_append
@[simp] theorem assemble_cons (x : Statement) (p : List Statement) : assemble (x :: p) = x.expand ++ assemble p := rfl
@[simp] theorem stimuli_nil : stimuli [] = [] := rfl
@[simp] theorem stimuli_append (p q : List ProgramItem) : stimuli (p ++ q) = stimuli p ++ stimuli q :=
  List.filterMap_append
@[simp] theorem stimuli_check (name : Observable) (v : Nat) (p : List ProgramItem) :
    stimuli (.beside (.check name v) :: p) = stimuli p := rfl

/-- The start state but for the stimulus is that of the program with other statements. -/
theorem startState_eq (p : Program) (before : State) :
    p.startState before = (p.start.getD (resetEdge before)).setStimulus (stimuli (assemble p.statements)) := rfl

/-- The CHECKs of two parts: those of the second come after the steps of the first. -/
theorem checkPointsFrom_append (k : Nat) (p q : List ProgramItem) :
    checkPointsFrom k (p ++ q) = checkPointsFrom k p ++ checkPointsFrom (k + (stimuli p).length) q := by
  induction p generalizing k with
  | nil => rfl
  | cons x p ih =>
    match x with
    | .stepWord w => simpa [stimuli, checkPointsFrom, ProgramItem.drives, Nat.add_assoc, Nat.add_comm 1] using ih (k + 1)
    | .beside (.indexWord w) =>
      simpa [stimuli, checkPointsFrom, ProgramItem.drives, Nat.add_assoc, Nat.add_comm 1] using ih (k + 1)
    | .beside .readPulses =>
      simpa [stimuli, checkPointsFrom, ProgramItem.drives, Nat.add_assoc, Nat.add_comm 1] using ih (k + 1)
    | .beside (.check name v) => simpa [checkPointsFrom] using ih k

/-- The answer with another stimulus pending. -/
def withPending (xs : List Stimulus) : Answer → Answer
  | .next t => .next (t.setStimulus xs)
  | .fault r => .fault r
  | .refused r => .refused r

theorem whenCounterInRange_withPending (s : State) (xs : List Stimulus) (a : Answer) :
    (s.setStimulus xs).whenCounterInRange (withPending xs a) = withPending xs (s.whenCounterInRange a) := by
  by_cases h : s.cnt.toNat ≤ 24 <;> simp [State.whenCounterInRange, h, withPending]

theorem feedByte_withPending (b : Byte) (s : State) (xs : List Stimulus) :
    feedByte b (s.setStimulus xs) = withPending xs (feedByte b s) := by
  refine (feedByte_reads_no_input b s xs s.result s.chIdx s.frameStrobe).trans ?_
  rcases h : feedByte b s with t | r | r
  · simp [withPending, State.setStimulus, ← (feedByte_keeps_inputs h).1]
  · rfl
  · rfl

theorem drainFrom_withPending (bytes : List Byte) (out : List Frame) (s : State) (xs : List Stimulus) :
    drainFrom bytes out (s.setStimulus xs) = withPending xs (drainFrom bytes out s) := by
  induction bytes generalizing s out with
  | nil => rfl
  | cons b bs ih =>
    simp only [drainFrom, feedByte_withPending]
    rcases feedByte b s with t | r | r
    · exact ih _ t
    · rfl
    · rfl

/-- No operation reads or writes the pending stimulus: with another one pending its answer is the same but for that. -/
theorem exec_withPending (i : Instr) (s : State) (xs : List Stimulus) :
    exec i (s.setStimulus xs) = withPending xs (exec i s) := by
  cases i with
  | reset v b => rfl
  | feed b => exact feedByte_withPending b s xs
  | nop b => exact whenCounterInRange_withPending s xs (.next (quietEdge s))
  | getChannel i =>
    refine (congrArg (s.setStimulus xs).whenCounterInRange ?_).trans (whenCounterInRange_withPending s xs _)
    cases channelOf i <;> rfl
  | getChannels => exact whenCounterInRange_withPending s xs (.next (s.setResult (.pulses (pulsesOf s.frame))))
  | scale raw => exact whenCounterInRange_withPending s xs (.next (s.setResult (.pulse (scale raw))))
  | drain bytes =>
    exact (congrArg (s.setStimulus xs).whenCounterInRange (drainFrom_withPending bytes [] s xs)).trans (whenCounterInRange_withPending s xs _)

/-- An operation keeps the pending stimulus. -/
theorem exec_stimulus {i : Instr} {s t : State} (h : exec i s = .next t) : t.stimulus = s.stimulus := by
  have h' : withPending s.stimulus (exec i s) = .next t := (exec_withPending i s s.stimulus).symm.trans h
  rw [h] at h'
  exact (congrArg State.stimulus (Host.Outcome.next.inj h')).symm

end Sys2Proof.Machine
end

