-- ==== Sys2Proof/Tests/Slice0.lean ====
section
/-! SUPPORT. Tests: expected values from 95_test_vectors.md (named by its row) or written out from the encodings of
30_encoding.md, and one witness for the hypotheses of each statement. -/

namespace Sys2Proof.Tests

open Sys2Proof.Machine

/-- Frame D of 95_test_vectors.md, V-CH. -/
def frameD : Frame :=
  #v[0x0F, 0xAC, 0x98, 0x38, 0xF8, 0x00, 0xF0, 0x7F, 0x00, 0x06, 0xC0, 0xFF, 0x55, 0x55, 0x15, 0x19, 0xB8, 0x7B, 0x80,
     0xFF, 0x05, 0x10, 0xFA, 0x0C, 0x00]

/-- Frame D with a wrong end marker. -/
def corruptD : Frame := frameD.set 24 0x01

/-- A state with `cnt = n`, frame D in both memories, the given flags and stimulus. -/
def st (n : Counter) (valid strobe : Bool) (xs : List Stimulus) : State :=
  { cnt := n, buf := frameD, frame := frameD, frameValid := valid, frameStrobe := strobe, chIdx := 0x00, stimulus := xs,
    result := .noFrame }

/-- The next state of an answer, if it is one. -/
def got : Answer → Option State
  | .next t => some t
  | .fault _ => none
  | .refused _ => none

/-! ## Well-formedness and decoding -/

theorem test_wellFormed_refuses_index_16 : ¬ (Instr.getChannel 0x10).WellFormed := by decide
theorem test_wellFormed_refuses_index_255 : ¬ (Instr.getChannel 0xFF).WellFormed := by decide
theorem test_wellFormed_takes_index_15 : (Instr.getChannel 0x0F).WellFormed := by decide
theorem test_decode_reset : decodeTableWord 16 0b1101010101 = some (.reset true 0x55) := by decide
theorem test_decode_feed : decodeTableWord 16 0b0110000001 = some (.feed 0x81) := by decide
theorem test_decode_nop : decodeTableWord 16 0b0011111111 = some (.nop 0xFF) := by decide
theorem test_decode_getChannel : decodeTableWord 8 0b00001010 = some (.getChannel 0x0A) := by decide
theorem test_decode_illegal_index_runs_as_getChannel : decodeTableWord 8 0b00010001 = some (.getChannel 0x11) := by decide
theorem test_decode_rejects_bit_10 : decodeWord 16 0b10000000000 = .error .bitsBeyondFormat := by decide
theorem test_decode_rejects_bit_8_of_an_index : decodeWord 8 0b100000000 = .error .bitsBeyondFormat := by decide
theorem test_decode_rejects_other_lengths : decodeWord 24 0x100 = .error .noFormat := by decide
theorem test_decode_getChannels : decode .readPulses = .getChannels := by decide
theorem test_drain_words : encode (.drain [0x0F, 0xAC]) = [.stepWord 0b0100001111, .stepWord 0b0110101100] := by decide
theorem test_scale_has_no_word : encode (.scale 1024) = [] := by decide
/-- The first words of program P1. -/
theorem test_program_p1_words : assemble [.reset, .feed 0xAA, .feed 0x00, .feed 0xF0, .getch 16, .check .asmCnt 0] =
    [.stepWord 0x200, .stepWord 0x1AA, .stepWord 0x100, .stepWord 0x1F0, .beside (.indexWord 0x10),
     .beside (.check .asmCnt 0)] := by decide

/-! ## One step of each operation -/

/-- V-RESET S1. -/
theorem test_reset_clears : (got (exec (.reset false 0x00) (st 12 true false []))).map
    (fun t => (t.cnt, t.frameValid, t.frame, t.buf)) = some (0, false, zeroFrame, frameD) := by decide
/-- V-RESET S2: the word 0x30F. -/
theorem test_reset_over_feed : (got (step (st 0 false false [.stepWord 0x30F]))).map (·.cnt) = some 0 := by decide
/-- V-NOP S5, S7. -/
theorem test_nop : (got (exec (.nop 0x00) (st 7 true true []))).map (fun t => (t.cnt, t.frameStrobe, t.frame)) =
    some (7, false, frameD) := by decide
/-- V-NOP S8: the word 0x0FF. -/
theorem test_nop_ignores_byte : (got (step (st 0 false false [.stepWord 0x0FF]))).map (·.cnt) = some 0 := by decide
/-- V-FEED F13, by a step of the word 0x100. -/
theorem test_feed_latches : (got (step (st 24 false false [.stepWord 0x100]))).map
    (fun t => (t.cnt, t.frameStrobe, t.frameValid, t.frame, t.result)) =
    some (0, true, true, frameD, .someFrame frameD) := by decide
/-- V-FEED F14: 0x0F as the 25th byte is the bad end marker and starts nothing. -/
theorem test_feed_bad_end_marker : (got (exec (.feed 0x0F) (st 24 false false []))).map
    (fun t => (t.cnt, t.frameStrobe, t.buf[24])) = some (0, false, 0x0F) := by decide
/-- Frame D, channels 1 and 9 (V-CH). -/
theorem test_getChannel_1 : (got (step (st 0 true false [.indexWord 0x01]))).map (fun t => (t.chRaw, t.chErr, t.result)) =
    some (1811, false, .raw 1811) := by decide
/-- V-CH-ERR: 0x1F does not clamp to channel 15. -/
theorem test_getChannel_out_of_range : (got (step (st 0 true false [.indexWord 0x1F]))).map
    (fun t => (t.chRaw, t.chErr, t.result)) = some (0, true, .outOfRange 0x1F) := by decide
/-- Frame D's pulse row (V-CH). -/
theorem test_getChannels : (got (step (st 0 true false [.readPulses]))).map (·.result) =
    some (.pulses #v[987, 2011, 1500, 880, 2159, 1520, 880, 2158, 1733, 1306, 942, 1817, 884, 1519, 1520, 2130]) := by decide
/-- Frame D's ch_raw row (V-CH). -/
theorem test_channels_of_frame_d : (List.finRange 16).map (unpack frameD) =
    [172, 1811, 992, 0, 2047, 1024, 1, 2046, 1365, 682, 100, 1500, 7, 1023, 1025, 2000] := by decide
/-- V-SCALE 1023: floor and truncation differ. -/
theorem test_scale_floors : (got (exec (.scale 1023) (st 0 true false []))).map (·.result) = some (.pulse 1519) := by decide
/-- V-SCALE 1023, the toward_zero column. -/
theorem test_scale_toward_zero : scaleInt { rounding := .towardZero } 1023 = 1520 := by decide
/-- R100: the last byte of frame D and a noise byte. -/
theorem test_drain : (got (exec (.drain [0x00, 0xAA]) (st 24 false false []))).map (fun t => (t.cnt, t.result)) =
    some (0, .frames [frameD]) := by decide
/-- V-ALL lane 4 of frame D, and the bus order of byte 23. -/
theorem test_buses : (st 0 true false []).pulseOut.extractLsb' 48 12 = 2159#12 ∧
    (st 0 true false []).frameOut.extractLsb' 184 8 = 0x0C#8 := by decide
/-- A CHECK holds exactly on the value (R82). -/
theorem test_check : (⟨0, .asmCnt, 10⟩ : CheckPoint).holdsIn (st 10 true false []) = true ∧
    (⟨0, .pulseLane 1, 2010⟩ : CheckPoint).holdsIn (st 10 true false []) = false := by decide
/-- A CHECK observes its own point: `asm_cnt` is 0 after RESET, 1 after the start marker (V-FEED F1), from any `cnt`. -/
theorem test_program_checks : (⟨none, [.check .asmCnt 0, .feed 0x0F, .check .asmCnt 1]⟩ : Program).checksHold
    (st 31 true true []) = true ∧
    (⟨none, [.check .asmCnt 1, .feed 0x0F]⟩ : Program).checksHold (st 31 true true []) = false := by decide
/-- R84: a CHECK is listed beside the step it follows. -/
theorem test_program_encoding : encodeProgram (assemble [.getch 3, .feed 0x0F, .check .asmCnt 1, .getall, .nop]) =
    ⟨[.indexWord 3], [⟨0x10F, [.check .asmCnt 1, .readPulses]⟩, ⟨0x000, []⟩]⟩ := by decide

/-! ## Witnesses: a state and operands that meet the hypotheses of each statement -/

/-- A state right after a latch. -/
def latched : State := st 0 true true []

theorem witness_latched_meets_inv : Inv latched ∧ latched.frameStrobe = true := by decide
theorem witness_DecodeInvertsEncode : (Instr.getChannel 0x0F).WellFormed ∧ (∀ raw, Instr.getChannel 0x0F ≠ .scale raw) ∧
    (∀ bytes, Instr.getChannel 0x0F ≠ .drain bytes) := ⟨rfl, nofun, nofun⟩
theorem witness_OnlyFormatWordsDecode : 16 < 17 ∧ decodeTableWord 8 255 ≠ none ∧ decodeTableWord 16 1023 ≠ none := by decide
theorem witness_StepRunsTheDecodedStimulus :
    (st 0 true false [.readPulses, .indexWord 3]).stimulus = .readPulses :: [.indexWord 3] := by decide
theorem witness_StepWithNothingDrivenIsANop : (st 5 true true []).stimulus = [] := by decide
theorem witness_PlacedWordIsRunByTheNextStep : (1023 : Nat) < 1024 ∧ (255 : Nat) < 256 := by decide
theorem witness_InputPortsSelectTheEdge_reset : (st 0 true false [.stepWord 0x3FF]).inputs.rst = true := by decide
theorem witness_InputPortsSelectTheEdge_feed : (st 0 true false [.stepWord 0x1FF]).inputs.rst = false ∧
    (st 0 true false [.stepWord 0x1FF]).inputs.inValid = true := by decide
theorem witness_InputPortsSelectTheEdge_nop : (st 0 true false [.stepWord 0x0FF]).inputs.rst = false ∧
    (st 0 true false [.stepWord 0x0FF]).inputs.inValid = false := by decide
theorem witness_HeldResetGivesTheResetState : ∀ x ∈ [(0x200 : StepWord), 0x3FF], x &&& 0x200 = 0x200 := by decide
theorem witness_IgnoredFieldsHaveNoEffect : ((0x200 : StepWord).getLsbD 9 = true ∧ (0x3FF : StepWord).getLsbD 9 = true) ∧
    ((0x000 : StepWord).getLsbD 9 = false ∧ (0x000 : StepWord).getLsbD 8 = false ∧
     (0x0FF : StepWord).getLsbD 9 = false ∧ (0x0FF : StepWord).getLsbD 8 = false) := by decide
theorem witness_PartialFrameWaits : (0 : Nat) < 1 ∧
    (got (exec (.feed 0x0F) (st 0 true false []))).map (·.cnt) ≠ some (st 0 true false []).cnt := by decide
theorem witness_FeedInIdle : (st 0 true true []).cnt = 0 ∧ (0x8F : Byte) ≠ 0x0F := by decide
theorem witness_FeedStoresInCollecting_low : 1 ≤ 1 ∧ 1 ≤ 23 ∧ (st 1 true false []).cnt.toNat = 1 := by decide
theorem witness_FeedStoresInCollecting_high : 1 ≤ 23 ∧ 23 ≤ 23 ∧ (st 23 true false []).cnt.toNat = 23 := by decide
theorem witness_FeedInCollecting24 : (st 24 false false []).cnt = 24 ∧ (0x0F : Byte) ≠ 0x00 := by decide
theorem witness_UnreachableCounter : 24 < (st 25 false false []).cnt.toNat ∧ 24 < (st 31 false false []).cnt.toNat := by
  decide
theorem witness_UnreachableCounter_operation : ∀ v b, Instr.nop 0x00 ≠ .reset v b := nofun
theorem witness_UnreachableCounter_step : ∀ w rest,
    (st 25 false false [.stepWord 0x1FF]).stimulus = .stepWord w :: rest → w &&& 0x200 = 0x000 := by
  intro w rest h; cases h; decide
theorem witness_CounterInRange : (st 0 true true []).cnt.toNat ≤ 24 ∧ (st 24 true true []).cnt.toNat ≤ 24 := by decide
theorem witness_FeedEmits : ∃ t, exec (.feed 0x00) (st 24 false false []) = .next t := ⟨_, rfl⟩
theorem witness_FeedEmits_none : ∃ t, exec (.feed 0x01) (st 24 false false []) = .next t := ⟨_, rfl⟩
theorem witness_DrainIsConsecutiveFeeds : (st 24 false false []).cnt.toNat ≤ 24 := by decide
theorem witness_Drain_yields : (got (exec (.drain [0x00]) (st 24 false false []))).map (·.result) =
    some (.frames [frameD]) := by decide
theorem witness_Drain_from_idle : (st 0 false false []).cnt = 0 ∧ ∃ t, exec (.drain [0xAA]) (st 0 false false []) = .next t :=
  ⟨rfl, _, rfl⟩
theorem witness_ValidFrameRoundTrips : ValidFrame frameD ∧ State.reset.cnt = 0 := by decide
theorem witness_CorruptFrameIsDiscarded : corruptD[0] = 0x0F ∧ corruptD[24] ≠ 0x00 ∧ ValidFrame frameD := by decide
theorem witness_LeadingNoiseIsSkipped : (∀ b ∈ [(0xAA : Byte), 0x00, 0xF0], b ≠ 0x0F) ∧ ValidFrame frameD := by decide
theorem witness_NoiseStartMarker : zeroFrame.set 0 0x0F = (zeroFrame.set 0 0x0F) ∧ (zeroFrame.set 0 0x0F)[0] = (0x0F : Byte) ∧
    (∀ k : Fin 24, (zeroFrame.set 0 0x0F)[k.val + 1] = zeroFrame[k.val]) := by decide
theorem witness_CandidateCollects : State.reset.cnt = 0 ∧ (List.replicate 23 (0x0F : Byte)).length ≤ 23 := by decide
theorem witness_IdleCyclesAndReads : noReset [.stepWord 0x10F, .stepWord 0x000, .indexWord 0x10, .readPulses] = true ∧
    fedBytes [.stepWord 0x10F, .stepWord 0x000, .indexWord 0x10, .readPulses] = [0x0F] := by decide
theorem witness_GetChannel_in_range : (0x0F : IndexWord).toNat ≤ 15 := by decide
theorem witness_GetChannel_out_of_range : 15 < (0x10 : IndexWord).toNat ∧ (∃ t u,
    exec (.getChannel 0x10) latched = .next t ∧ exec (.getChannel 0x0F) t = .next u) := ⟨by decide, _, _, rfl, rfl⟩
theorem witness_Index_outside : (-1 : Int) < 0 ∧ (15 : Int) < 16 := by decide
theorem witness_AnyCoveringSpan : firstByte 15 + 3 ≤ 25 ∧ spanBytes 15 ≤ 3 := by decide
theorem witness_ChannelDependsOnlyOnItsField : ∀ q : Fin 176, 11 * (0 : ChannelIndex).val ≤ q.val →
    q.val ≤ 11 * (0 : ChannelIndex).val + 10 → payloadBit frameD q = payloadBit (frameD.set 22 0x00) q := by
  intro q _ h
  have hk : 22 ≠ 1 + q.val / 8 := by simp at h; omega
  simp only [payloadBit]
  rw [Vector.getElem_set_ne _ _ hk]
theorem witness_ChannelsIgnoreTheFlagsByte : ∀ k : Position, 1 ≤ k.val → k.val ≤ 22 →
    frameD[k] = (((frameD.set 0 0xFF).set 23 0xFF).set 24 0xFF)[k] := by decide
theorem witness_ScaleStaysInRange : (0 : Int) - 1024 = -1024 ∧ (-1024 : Int) * 5 = -5120 ∧
    scaleShift Config.scale (-5120) = -640 := by decide
theorem witness_Scale : ∃ t, exec (.scale 2039) latched = .next t ∧ t.result = .pulse (scale 2039) := ⟨_, rfl, rfl⟩
theorem witness_ScaleShape : (2039 : Raw).toNat ≤ (2047 : Raw).toNat ∧ (2047 : Raw).toNat = (2039 : Raw).toNat + 8 ∧
    (2040 : Raw).toNat = (2039 : Raw).toNat + 1 := by decide
theorem witness_ReadsChangeNoState : ∃ raw, Instr.scale 5 = .scale raw := ⟨5, rfl⟩
theorem witness_LatchCycle : (st 24 true false [.stepWord 0x100]).cnt = 24 ∧
    (st 24 true false [.stepWord 0x100]).stimulus = .stepWord 0x100 :: [] := by decide
theorem witness_ObservationsBesideTheirStep : (∀ o rest, [ProgramItem.stepWord 0x000] ≠ .beside o :: rest) ∧
    ∃ t, exec (.reset false 0x00) (st 31 true true []) = .next t := ⟨nofun, _, rfl⟩
theorem witness_CheckObservesTheStateAtItsPoint : ∃ t, runSteps (stimuli (assemble [.feed 0x0F])).length
    ((Program.mk none [.feed 0x0F]).startState (st 31 true true [])) = .next t ∧ t.observe .asmCnt = 1 := ⟨_, rfl, rfl⟩
theorem witness_FrameRegisterIsWrittenWhole : ∃ t, step (st 24 true false [.stepWord 0x100]) = .next t := ⟨_, rfl⟩
theorem witness_EveryStepKeepsTheInvariant : Inv (st 24 true false [.stepWord 0x100]) ∧
    ∃ t, step (st 24 true false [.stepWord 0x100]) = .next t := ⟨by decide, _, rfl⟩
theorem witness_CopyOutWindow : Inv latched ∧ latched.frameStrobe = true ∧
    ∀ w ∈ List.replicate 24 (0x10F : StepWord), w &&& 0x200 = 0x000 := by decide
theorem witness_UnwrittenBuffer : (st 3 true false []).cnt.toNat ≤ 24 ∧
    SameButUnwritten (st 3 true false []) { st 3 true false [] with buf := frameD.set 3 0xEE } := by decide

end Sys2Proof.Tests
end

section
/-! The step on a driven stimulus, and what SCALE is on integers under each rounding (R12, R120, R126, D15, U4). -/

namespace Sys2Proof.Machine

/-! ## One step on a driven stimulus -/

theorem step_cons {s : State} {x : Stimulus} {rest : List Stimulus} (h : s.stimulus = x :: rest) :
    step s = exec (decode x) (s.setStimulus rest) := by
  rw [step, fetch_cons h]

/-- Settles O6: the oldest stimulus is the one fetched. -/
theorem stepRunsTheDecodedStimulus : Obligations.StepRunsTheDecodedStimulus :=
  fun _ _ _ h => step_cons h

/-! ## SCALE on integers -/

/-- The arithmetic shift is Euclidean division by the positive divisor 2^SCALE_SHIFT (R10). -/
theorem scaleShift_of_floor {p : ScaleParams} (h : p.rounding = .floor) (m : Int) :
    scaleShift p m = m / 2 ^ p.shift := by
  simp [scaleShift, h, Int.shiftRight_eq_div_pow]

theorem scaleShift_of_towardZero {p : ScaleParams} (h : p.rounding = .towardZero) (m : Int) :
    scaleShift p m = m.tdiv (2 ^ p.shift) := by
  simp [scaleShift, h]

/-- Settles O45, by the two readings of the shift: for the positive divisor, floor and Euclidean division agree. -/
theorem scaleAtAnyParameters : Obligations.ScaleAtAnyParameters := by
  intro p raw
  have hdiv : (0 : Int) ≤ 2 ^ p.shift := by positivity
  rw [scaleInt]
  cases h : p.rounding with
  | floor => rw [scaleShift_of_floor h, Int.fdiv_eq_ediv_of_nonneg _ hdiv]
  | towardZero => rw [scaleShift_of_towardZero h]

/-- At any parameters, the two readings of the shift differ exactly where the product is negative and not a multiple of
2^SCALE_SHIFT (D15, U4). -/
theorem scaleShift_towardZero_eq_floor_add {p q : ScaleParams} (hp : p.rounding = .towardZero)
    (hq : q.rounding = .floor) (hshift : p.shift = q.shift) (m : Int) :
    scaleShift p m = scaleShift q m + (if m < 0 ∧ ¬ (2 ^ q.shift : Int) ∣ m then 1 else 0) := by
  have hsign : (2 ^ q.shift : Int).sign = 1 := Int.sign_eq_one_of_pos (by positivity)
  rw [scaleShift_of_towardZero hp, scaleShift_of_floor hq, hshift, Int.tdiv_eq_ediv, hsign]
  simp only [← not_le, ← not_or, ite_not]

/-- The multiplier 5 changes neither the sign of `raw - 1024` nor whether 8 divides it. -/
theorem scaleProduct_roundsUp_iff (raw : Int) :
    ((raw - 1024) * 5 < 0 ∧ ¬ (2 ^ 3 : Int) ∣ (raw - 1024) * 5) ↔ raw < 1024 ∧ (raw - 1024) % 8 ≠ 0 := by
  omega

/-- Settles O44: the difference of the two shifts, at this block's parameters. -/
theorem roundingReadingsDifferOnlyBelowTheCentre : Obligations.RoundingReadingsDifferOnlyBelowTheCentre := by
  intro raw
  have hshift := scaleShift_towardZero_eq_floor_add (p := { Config.scale with rounding := .towardZero })
    (q := Config.scale) rfl rfl rfl ((raw - 1024) * 5)
  calc scaleInt { Config.scale with rounding := .towardZero } raw
      = scaleShift { Config.scale with rounding := .towardZero } ((raw - 1024) * 5) + 1520 := rfl
    _ = scaleShift Config.scale ((raw - 1024) * 5) + 1520 +
          (if (raw - 1024) * 5 < 0 ∧ ¬ (2 ^ 3 : Int) ∣ (raw - 1024) * 5 then 1 else 0) := by
        rw [hshift, add_right_comm]; rfl
    _ = scaleInt Config.scale raw + (if raw < 1024 ∧ (raw - 1024) % 8 ≠ 0 then 1 else 0) := by
        rw [if_congr (scaleProduct_roundsUp_iff raw) rfl rfl]; rfl

end Sys2Proof.Machine
end

section
/-! What an accepted byte does, edge by edge; what every edge keeps; runs that do not stop (10_state.md R20 to R33). -/

namespace Sys2Proof.Machine

/-! ## The edges of the assembler as records (R92 to R98) -/

theorem quietEdge_eq (s : State) : quietEdge s = { s with frameStrobe := false, result := .noFrame } := rfl

theorem startCandidate_eq (b : Byte) (s : State) : startCandidate b s =
    { s with cnt := 1, buf := s.buf.set 0 b, frameStrobe := false, result := .noFrame } := rfl

theorem collectByte_eq (n : Position) (b : Byte) (s : State) : collectByte n b s =
    { s with cnt := s.cnt + 1, buf := s.buf.set n b, frameStrobe := false, result := .noFrame } := rfl

theorem latchCandidate_eq (b : Byte) (s : State) : latchCandidate b s =
    { s with cnt := 0, buf := s.buf.set 24 b, frame := candidate b s, frameValid := true, frameStrobe := true,
             result := .someFrame (candidate b s) } := rfl

theorem discardCandidate_eq (b : Byte) (s : State) : discardCandidate b s =
    { s with cnt := 0, buf := s.buf.set 24 b, frameStrobe := false, result := .noFrame } := rfl

/-- The counter's increment does not wrap while a byte is collected (R29, R96). -/
theorem collectByte_cnt_toNat {s : State} (h : s.cnt.toNat < 24) (n : Position) (b : Byte) :
    (collectByte n b s).cnt.toNat = s.cnt.toNat + 1 := by
  rw [collectByte_eq]; bv_omega

/-! ## `feedByte`, one equation per case of R90 -/

theorem feedByte_startMarker {s : State} (h : s.cnt.toNat = 0) :
    feedByte Config.startMarker s = .next (startCandidate Config.startMarker s) := by
  simp [feedByte, whenCounterInRange_of_le, h, isStart]

theorem feedByte_skip {b : Byte} {s : State} (h : s.cnt.toNat = 0) (hb : b ≠ Config.startMarker) :
    feedByte b s = .next (quietEdge s) := by
  simp [feedByte, whenCounterInRange_of_le, h, isStart, hb]

theorem feedByte_collect (b : Byte) {s : State} (h0 : s.cnt.toNat ≠ 0) (h : s.cnt.toNat < 24) :
    feedByte b s = .next (collectByte ⟨s.cnt.toNat, by omega⟩ b s) := by
  simp [feedByte, whenCounterInRange_of_le (Nat.le_of_lt h), h0, h]

theorem feedByte_endMarker {s : State} (h : s.cnt.toNat = 24) :
    feedByte Config.endMarker s = .next (latchCandidate Config.endMarker s) := by
  simp [feedByte, whenCounterInRange_of_le, h, isEnd]

theorem feedByte_discard {b : Byte} {s : State} (h : s.cnt.toNat = 24) (hb : b ≠ Config.endMarker) :
    feedByte b s = .next (discardCandidate b s) := by
  simp [feedByte, whenCounterInRange_of_le, h, isEnd, hb]

/-- An accepted byte either leaves the frame register and emits nothing, or latches the candidate (R90, R97). -/
theorem feedByte_quiet_or_latches {b : Byte} {s t : State} (h : feedByte b s = .next t) :
    (t.frame = s.frame ∧ t.frameValid = s.frameValid ∧ t.frameStrobe = false ∧ t.result = .noFrame) ∨
    (s.cnt.toNat = 24 ∧ b = Config.endMarker ∧ t = latchCandidate b s) := by
  rcases feedByte_cases h with ⟨_, _, rfl⟩ | ⟨_, _, rfl⟩ | ⟨_, _, rfl⟩ | hlatch | ⟨_, _, rfl⟩
  · exact .inl ⟨rfl, rfl, rfl, rfl⟩
  · exact .inl ⟨rfl, rfl, rfl, rfl⟩
  · exact .inl ⟨rfl, rfl, rfl, rfl⟩
  · exact .inr hlatch
  · exact .inl ⟨rfl, rfl, rfl, rfl⟩

/-- An accepted byte advances the counter by at most one, and never past 24 (R29, R90). -/
theorem feedByte_cnt_le {b : Byte} {s t : State} (h : feedByte b s = .next t) :
    t.cnt.toNat ≤ s.cnt.toNat + 1 ∧ t.cnt.toNat ≤ 24 := by
  rcases feedByte_cases h with ⟨h0, _, rfl⟩ | ⟨h0, _, rfl⟩ | ⟨_, hn, rfl⟩ | ⟨_, _, rfl⟩ | ⟨_, _, rfl⟩
  · simp [startCandidate_eq]
  · simp [quietEdge_eq, h0]
  · rw [collectByte_cnt_toNat hn]; omega
  · simp [latchCandidate_eq]
  · simp [discardCandidate_eq]

/-! ## The reads -/

theorem exec_getChannel_inRange {c : IndexWord} {i : ChannelIndex} (hc : channelOf c = some i) (s : State) :
    exec (.getChannel c) s = s.whenCounterInRange (.next ((s.setChIdx c).setResult (.raw (unpack s.frame i)))) := by
  simp [exec, execGetChannel, hc]

theorem exec_getChannel_outOfRange {c : IndexWord} (hc : channelOf c = none) (s : State) :
    exec (.getChannel c) s = s.whenCounterInRange (.next (s.raiseOutOfRange c)) := by
  simp [exec, execGetChannel, hc]

/-- GET_CHANNEL is a guarded write of `ch_idx` and the result alone (R60, R111, R141). -/
theorem exec_getChannel (c : IndexWord) (s : State) :
    ∃ r, exec (.getChannel c) s = s.whenCounterInRange (.next ((s.setChIdx c).setResult r)) := by
  rcases hc : channelOf c with _ | i
  · exact ⟨_, exec_getChannel_outOfRange hc s⟩
  · exact ⟨_, exec_getChannel_inRange hc s⟩

/-! ## A property that every edge keeps -/

/-- `P` is kept by each of the writes that operations are made of, and says nothing about the inputs and the record of the
latest result. -/
structure KeptByEdges (P : State → Prop) : Prop where
  reset : ∀ {s : State}, P s → P (resetEdge s)
  feed : ∀ {b : Byte} {s t : State}, P s → feedByte b s = .next t → P t
  quiet : ∀ {s : State}, P s → P (quietEdge s)
  inputs : ∀ {s : State} (c : IndexWord) (xs : List Stimulus) (r : Result), P s →
    P { s with chIdx := c, stimulus := xs, result := r }

namespace KeptByEdges

variable {P : State → Prop} (hP : KeptByEdges P)
include hP

theorem of_setStimulus {s : State} (xs : List Stimulus) (h : P s) : P (s.setStimulus xs) := hP.inputs s.chIdx xs s.result h

theorem of_setResult {s : State} (r : Result) (h : P s) : P (s.setResult r) := hP.inputs s.chIdx s.stimulus r h

theorem of_drainFrom {bytes : List Byte} {out : List Frame} {s t : State} (hs : P s)
    (h : drainFrom bytes out s = .next t) : P t := by
  induction bytes generalizing out s with
  | nil => cases h; exact hP.of_setResult _ hs
  | cons b bs ih =>
    obtain ⟨u, hfeed, hrest⟩ := drainFrom_cons_next h
    exact ih (hP.feed hs hfeed) hrest

/-- Every operation keeps what every edge keeps. -/
theorem of_exec {i : Instr} {s t : State} (hs : P s) (h : exec i s = .next t) : P t := by
  cases i with
  | reset v b => cases h; exact hP.reset hs
  | feed b => exact hP.feed hs h
  | nop b => obtain ⟨-, h⟩ := whenCounterInRange_next.mp h; cases h; exact hP.quiet hs
  | getChannel c =>
    obtain ⟨r, hr⟩ := exec_getChannel c s
    obtain ⟨-, h⟩ := whenCounterInRange_next.mp (hr ▸ h)
    cases h; exact hP.of_setResult r (hP.inputs c s.stimulus s.result hs)
  | getChannels => obtain ⟨-, h⟩ := whenCounterInRange_next.mp h; cases h; exact hP.of_setResult _ hs
  | scale raw => obtain ⟨-, h⟩ := whenCounterInRange_next.mp h; cases h; exact hP.of_setResult _ hs
  | drain bytes => exact hP.of_drainFrom hs (execDrain_next.mp h).2

/-- So does every step, whatever is driven. -/
theorem of_step {s t : State} (hs : P s) (h : step s = .next t) : P t :=
  hP.of_exec (fetch_state s ▸ hP.of_setStimulus _ hs) h

end KeptByEdges

/-! ## The counter stays in 0..24 and no run stops (R29, R105) -/

theorem counterInRange_kept : KeptByEdges CounterInRange where
  reset _ := Nat.zero_le 24
  feed _ h := (feedByte_cnt_le h).2
  quiet hs := hs
  inputs _ _ _ hs := hs

theorem drainFrom_completes (bytes : List Byte) (out : List Frame) {s : State} (hs : CounterInRange s) :
    ∃ t, drainFrom bytes out s = .next t := by
  induction bytes generalizing out s with
  | nil => exact ⟨_, drainFrom_nil out s⟩
  | cons b bs ih =>
    obtain ⟨u, hu⟩ := feedByte_completes b hs
    rw [drainFrom_cons hu]
    exact ih _ (counterInRange_kept.feed hs hu)

theorem exec_completes (i : Instr) {s : State} (hs : CounterInRange s) : ∃ t, exec i s = .next t := by
  cases i with
  | reset v b => exact ⟨_, rfl⟩
  | feed b => exact feedByte_completes b hs
  | nop b => exact ⟨_, whenCounterInRange_of_le hs _⟩
  | getChannel c =>
    obtain ⟨r, hr⟩ := exec_getChannel c s
    exact ⟨_, hr.trans (whenCounterInRange_of_le hs _)⟩
  | getChannels => exact ⟨_, whenCounterInRange_of_le hs _⟩
  | scale raw => exact ⟨_, whenCounterInRange_of_le hs _⟩
  | drain bytes =>
    obtain ⟨t, ht⟩ := drainFrom_completes bytes [] hs
    exact ⟨t, execDrain_next.mpr ⟨hs, ht⟩⟩

theorem step_completes {s : State} (hs : CounterInRange s) : ∃ t, step s = .next t ∧ CounterInRange t := by
  obtain ⟨t, ht⟩ := exec_completes (fetch s).1 (s := (fetch s).2) (fetch_state s ▸ hs)
  exact ⟨t, ht, counterInRange_kept.of_step hs ht⟩

theorem runSteps_completes (k : Nat) {s : State} (hs : CounterInRange s) :
    ∃ t, runSteps k s = .next t ∧ CounterInRange t := by
  induction k generalizing s with
  | zero => exact ⟨s, rfl, hs⟩
  | succ k ih =>
    obtain ⟨u, hu, hcu⟩ := step_completes hs
    rw [runSteps_next hu]
    exact ih hcu

/-- Settles O55: each operation completes and keeps the counter in range, and so does each run. -/
theorem noRunStops : Obligations.NoRunStops := by
  refine ⟨fun i s hs => ?_, fun k s => runSteps_completes k⟩
  obtain ⟨t, ht⟩ := exec_completes i hs
  exact ⟨t, ht, counterInRange_kept.of_exec hs ht⟩

/-! ## The invariant (R29 to R31) -/

theorem inv_resetEdge (s : State) : Inv (resetEdge s) :=
  ⟨Nat.zero_le 24, fun h => absurd rfl h, ⟨nofun, fun _ => rfl⟩, nofun⟩

theorem inv_startCandidate {s : State} (hs : Inv s) : Inv (startCandidate Config.startMarker s) := by
  obtain ⟨-, -, hframe, -⟩ := hs
  refine ⟨?_, fun _ => ?_, hframe, nofun⟩
  · exact (by decide : (1 : Counter).toNat ≤ 24)
  · simp [startCandidate_eq]

theorem inv_quietEdge {s : State} (hs : Inv s) : Inv (quietEdge s) := by
  obtain ⟨hcnt, hstart, hframe, -⟩ := hs
  exact ⟨hcnt, hstart, hframe, nofun⟩

/-- A byte collected at a position above 0 leaves the start marker in `buf[0]`. -/
theorem inv_collectByte {s : State} (hs : Inv s) (h0 : s.cnt.toNat ≠ 0) (h : s.cnt.toNat < 24) (b : Byte) :
    Inv (collectByte ⟨s.cnt.toNat, by omega⟩ b s) := by
  obtain ⟨-, hstart, hframe, -⟩ := hs
  refine ⟨?_, fun _ => ?_, hframe, nofun⟩
  · rw [CounterInRange, collectByte_cnt_toNat h]; omega
  · have hs0 : s.buf[0] = Config.startMarker := hstart fun hz => h0 (by rw [hz]; rfl)
    simpa [collectByte_eq, Vector.getElem_set, h0] using hs0

/-- The latched frame has the start marker the candidate began with and the end marker that closed it. -/
theorem inv_latchCandidate {s : State} (hs : Inv s) (h : s.cnt.toNat = 24) : Inv (latchCandidate Config.endMarker s) := by
  obtain ⟨-, hstart, -, -⟩ := hs
  have hs0 : s.buf[0] = Config.startMarker := hstart fun hz => by simp [hz] at h
  refine ⟨Nat.zero_le 24, fun hz => absurd rfl hz, ⟨fun _ => ⟨?_, ?_⟩, nofun⟩, fun _ => ⟨rfl, rfl⟩⟩
  · simpa [latchCandidate_eq, candidate, Vector.getElem_set] using hs0
  · simp [latchCandidate_eq, candidate]

theorem inv_discardCandidate {s : State} (hs : Inv s) (b : Byte) : Inv (discardCandidate b s) := by
  obtain ⟨-, -, hframe, -⟩ := hs
  exact ⟨Nat.zero_le 24, fun hz => absurd rfl hz, hframe, nofun⟩

theorem inv_feedByte {b : Byte} {s t : State} (hs : Inv s) (h : feedByte b s = .next t) : Inv t := by
  rcases feedByte_cases h with ⟨_, rfl, rfl⟩ | ⟨_, _, rfl⟩ | ⟨h0, hn, rfl⟩ | ⟨h24, rfl, rfl⟩ | ⟨_, _, rfl⟩
  · exact inv_startCandidate hs
  · exact inv_quietEdge hs
  · exact inv_collectByte hs h0 hn b
  · exact inv_latchCandidate hs h24
  · exact inv_discardCandidate hs b

theorem inv_kept : KeptByEdges Inv where
  reset _ := inv_resetEdge _
  feed := inv_feedByte
  quiet := inv_quietEdge
  inputs _ _ _ hs := hs

/-- Settles O54: every edge keeps the invariant, so every operation and every step does. -/
theorem everyStepKeepsTheInvariant : Obligations.EveryStepKeepsTheInvariant :=
  ⟨fun _ _ _ => inv_kept.of_exec, fun _ _ => inv_kept.of_step⟩

/-- Settles O53: the state after reset is what a reset edge leaves. -/
theorem resetStateMeetsTheInvariant : Obligations.ResetStateMeetsTheInvariant := inv_resetEdge State.reset

end Sys2Proof.Machine
end

section
/-! The bytes of `buf` that the current candidate has not written reach no output (10_state.md R30, R170, D9). -/

namespace Sys2Proof.Machine

/-- `f` has, in its first `cnt` bytes, the candidate that `s` is collecting (R30). -/
def HoldsCandidate (s : State) (f : Frame) : Prop := ∀ k : Position, k.val < s.cnt.toNat → f[k] = s.buf[k]

/-- States that agree on all but unwritten bytes are one state with two working buffers. -/
theorem sameButUnwritten_iff {s t : State} : SameButUnwritten s t ↔ ∃ f, t = s.setBuf f ∧ HoldsCandidate s f := by
  constructor
  · obtain ⟨cnt, buf, frame, valid, strobe, chIdx, stimulus, result⟩ := t
    rintro ⟨rfl, hbuf, rfl, rfl, rfl, rfl, rfl, rfl⟩
    exact ⟨buf, rfl, hbuf⟩
  · rintro ⟨f, rfl, hf⟩
    exact ⟨rfl, hf, rfl, rfl, rfl, rfl, rfl, rfl⟩

/-- `a'` is the answer `a` with another working buffer that holds the same candidate. -/
def SameAnswerButUnwritten (a a' : Answer) : Prop :=
  ∀ s, a = .next s → ∃ f, a' = .next (s.setBuf f) ∧ HoldsCandidate s f

theorem holdsCandidate_of_cnt_zero {s : State} (h : s.cnt = 0) (f : Frame) : HoldsCandidate s f :=
  fun k hk => by simp [h] at hk

theorem holdsCandidate_startCandidate (b : Byte) (s : State) (f : Frame) :
    HoldsCandidate (startCandidate b s) (f.set 0 b) := by
  intro k hk
  have hk0 : k = 0 := Fin.ext (Nat.lt_one_iff.mp hk)
  simp [hk0, startCandidate_eq]

/-- The byte collected at position `cnt` extends the candidate in both buffers. -/
theorem holdsCandidate_collectByte {s : State} {f : Frame} (hf : HoldsCandidate s f) (hn : s.cnt.toNat < 24) (b : Byte) :
    HoldsCandidate (collectByte ⟨s.cnt.toNat, by omega⟩ b s) (f.set s.cnt.toNat b) := by
  intro k hk
  rw [collectByte_cnt_toNat hn] at hk
  rcases Nat.lt_or_eq_of_le (Nat.lt_succ_iff.mp hk) with hlt | heq
  · simpa [collectByte_eq, Vector.getElem_set, Nat.ne_of_gt hlt] using hf k hlt
  · simp [collectByte_eq, ← heq]

/-- With 24 bytes collected, the whole candidate is written: `buf` does not show in the latched frame. -/
theorem candidate_setBuf {s : State} {f : Frame} (hf : HoldsCandidate s f) (h : s.cnt.toNat = 24) (b : Byte) :
    candidate b (s.setBuf f) = candidate b s := by
  refine Vector.ext fun k hk => ?_
  by_cases hlast : 24 = k
  · simp [candidate, ← hlast]
  · simpa [candidate, Vector.getElem_set, hlast] using hf ⟨k, hk⟩ (by simp only; omega)

theorem feedByte_setBuf {s : State} {f : Frame} (hf : HoldsCandidate s f) (b : Byte) :
    SameAnswerButUnwritten (feedByte b s) (feedByte b (s.setBuf f)) := by
  intro t h
  rcases feedByte_cases h with ⟨h0, rfl, rfl⟩ | ⟨h0, hb, rfl⟩ | ⟨h0, hn, rfl⟩ | ⟨h24, rfl, rfl⟩ | ⟨h24, hb, rfl⟩
  · exact ⟨_, feedByte_startMarker (s := s.setBuf f) h0, holdsCandidate_startCandidate _ s f⟩
  · exact ⟨f, feedByte_skip (s := s.setBuf f) h0 hb, hf⟩
  · exact ⟨_, feedByte_collect (s := s.setBuf f) b h0 hn, holdsCandidate_collectByte hf hn b⟩
  · refine ⟨f.set 24 Config.endMarker, ?_, holdsCandidate_of_cnt_zero rfl _⟩
    rw [feedByte_endMarker (s := s.setBuf f) h24, latchCandidate_eq, candidate_setBuf hf h24]
    rfl
  · exact ⟨_, feedByte_discard (s := s.setBuf f) h24 hb, holdsCandidate_of_cnt_zero rfl _⟩

theorem drainFrom_setBuf {s : State} {f : Frame} (hf : HoldsCandidate s f) (bytes : List Byte) (out : List Frame) :
    SameAnswerButUnwritten (drainFrom bytes out s) (drainFrom bytes out (s.setBuf f)) := by
  intro t h
  induction bytes generalizing s f out with
  | nil => cases h; exact ⟨f, rfl, hf⟩
  | cons b bs ih =>
    obtain ⟨u, hfeed, hrest⟩ := drainFrom_cons_next h
    obtain ⟨g, hfeed', hg⟩ := feedByte_setBuf hf b u hfeed
    rw [drainFrom_cons hfeed']
    exact ih hg _ hrest

/-- An operation that reads and writes no byte of `buf` and keeps `cnt` answers the same with another buffer. -/
theorem whenCounterInRange_setBuf {s t : State} {f : Frame} (hf : HoldsCandidate t f) :
    SameAnswerButUnwritten (s.whenCounterInRange (.next t)) ((s.setBuf f).whenCounterInRange (.next (t.setBuf f))) := by
  intro u h
  obtain ⟨hc, h⟩ := whenCounterInRange_next.mp h
  cases h
  exact ⟨f, whenCounterInRange_next.mpr ⟨hc, rfl⟩, hf⟩

theorem exec_setBuf {s : State} {f : Frame} (hf : HoldsCandidate s f) (i : Instr) :
    SameAnswerButUnwritten (exec i s) (exec i (s.setBuf f)) := by
  cases i with
  | reset v b => intro t h; cases h; exact ⟨f, rfl, holdsCandidate_of_cnt_zero rfl f⟩
  | feed b => exact feedByte_setBuf hf b
  | nop b => exact whenCounterInRange_setBuf (t := quietEdge s) hf
  | getChannel c =>
    rcases hc : channelOf c with _ | i
    · rw [exec_getChannel_outOfRange hc, exec_getChannel_outOfRange hc]
      exact whenCounterInRange_setBuf (t := s.raiseOutOfRange c) hf
    · rw [exec_getChannel_inRange hc, exec_getChannel_inRange hc]
      exact whenCounterInRange_setBuf (t := (s.setChIdx c).setResult _) hf
  | getChannels => exact whenCounterInRange_setBuf (t := s.setResult _) hf
  | scale raw => exact whenCounterInRange_setBuf (t := s.setResult _) hf
  | drain bytes =>
    intro t h
    obtain ⟨hc, h⟩ := execDrain_next.mp h
    obtain ⟨g, hdrain, hg⟩ := drainFrom_setBuf hf bytes [] t h
    exact ⟨g, execDrain_next.mpr ⟨hc, hdrain⟩, hg⟩

/-- The next stimulus is fetched without a look at `buf`. -/
theorem fetch_setBuf (s : State) (f : Frame) : fetch (s.setBuf f) = ((fetch s).1, (fetch s).2.setBuf f) := by
  rcases h : s.stimulus with _ | ⟨x, rest⟩
  · rw [fetch_nil h, fetch_nil (s := s.setBuf f) h]
  · rw [fetch_cons h, fetch_cons (s := s.setBuf f) h]; rfl

theorem step_setBuf {s : State} {f : Frame} (hf : HoldsCandidate s f) :
    SameAnswerButUnwritten (step s) (step (s.setBuf f)) := by
  rw [step, step, fetch_setBuf]
  exact exec_setBuf (fetch_state s ▸ hf) _

/-- Any number of steps from two such states end in two such states, and emit the same frames. -/
theorem runSteps_setBuf (k : Nat) {s : State} {f : Frame} (hs : CounterInRange s) (hf : HoldsCandidate s f) :
    ∃ s' g, runSteps k s = .next s' ∧ runSteps k (s.setBuf f) = .next (s'.setBuf g) ∧ HoldsCandidate s' g ∧
      emissions k s = emissions k (s.setBuf f) := by
  induction k generalizing s f with
  | zero => exact ⟨s, f, rfl, rfl, hf, rfl⟩
  | succ k ih =>
    obtain ⟨u, hu, hcu⟩ := step_completes hs
    obtain ⟨g, hu', hg⟩ := step_setBuf hf u hu
    rw [runSteps_next hu, runSteps_next hu', emissions_next hu, emissions_next hu']
    obtain ⟨s', g', hrun, hrun', hg', hemit⟩ := ih hcu hg
    exact ⟨s', g', hrun, hrun', hg', by rw [hemit, setBuf_result]⟩

/-- Settles O58: no output port is a function of `buf`, and each step keeps the two states one state with two buffers that
hold the same candidate. -/
theorem unwrittenBufferIsNeverObserved : Obligations.UnwrittenBufferIsNeverObserved := by
  intro k s t hs hst
  obtain ⟨f, rfl, hf⟩ := sameButUnwritten_iff.mp hst
  obtain ⟨s', g, hrun, hrun', hg, hemit⟩ := runSteps_setBuf k hs hf
  exact ⟨s', s'.setBuf g, hrun, hrun', sameButUnwritten_iff.mpr ⟨g, rfl, hg⟩, rfl, hemit⟩

end Sys2Proof.Machine
end

section
/-! The frame register, the strobe and the assembler along steps and DRAINs; the input ports; the outputs after reset. -/

namespace Sys2Proof.Machine

/-! ## The input ports (R20, R71, R72) -/

theorem inputs_of_stepWord {s : State} {w : StepWord} {rest : List Stimulus} (h : s.stimulus = .stepWord w :: rest) :
    s.inputs.rst = stepR w ∧ s.inputs.inValid = stepV w ∧ s.inputs.inByte = stepB w := by
  simp [State.inputs, h, nextStepWord]

/-- Settles O9: the ports show the fields R, V and B of the step word, by which the operation map chooses. -/
theorem inputPortsSelectTheEdge : Obligations.InputPortsSelectTheEdge := by
  intro s w rest h
  obtain ⟨hrst, hvalid, hbyte⟩ := inputs_of_stepWord h
  have hstep : step s = exec (decodeStep w) { s with stimulus := rest } := step_cons h
  rw [hrst, hvalid, hbyte, hstep, decodeStep_byBits]
  refine ⟨fun hr => ?_, fun hr hv => ?_, fun hr hv => ?_⟩
  · rw [if_pos hr]
  · rw [hr, hv]; rfl
  · rw [hr, hv]; rfl

/-! ## The outputs after reset (R33, R116) -/

/-- Lane i of `pulse_out` is the pulse of channel i (R21, R124). -/
theorem pulseOut_lane (s : State) (i : ChannelIndex) :
    s.pulseOut.extractLsb' (12 * i.val) 12 = scale (unpack s.frame i) := by
  have hlen : (pulsesOf s.frame).toList.length = 16 := Vector.length_toList
  have hfits := packLow_lt 12 (pulsesOf s.frame).toList
  rw [hlen] at hfits
  refine BitVec.eq_of_toNat_eq ?_
  rw [BitVec.extractLsb'_toNat, State.pulseOut, BitVec.toNat_ofNat, Nat.mod_eq_of_lt hfits, Nat.shiftRight_eq_div_pow,
    packLow_field 12 _ i.val (by rw [hlen]; exact i.isLt), ← pulsesOf_get]
  simp

theorem unpack_zeroFrame : ∀ i : ChannelIndex, unpack zeroFrame i = 0 := by decide

theorem scale_zero : scale 0 = 880#12 := by decide

theorem frameOut_of_zeroFrame {s : State} (h : s.frame = zeroFrame) : s.frameOut = 0 := by
  rw [State.frameOut, h]; decide

/-- The outputs of an in-range index follow from the frame register: all zeros read as channel value 0. -/
theorem chRaw_chErr_of_zeroFrame {s : State} (h : s.frame = zeroFrame) (hi : s.chIdx.toNat ≤ 15) :
    s.chRaw = 0 ∧ s.chErr = false := by
  refine ⟨?_, ?_⟩
  · simp only [State.chRaw, channelOf_inRange (Nat.lt_succ_of_le hi), h, unpack_zeroFrame]
  · simpa [State.chErr, indexError] using hi

theorem showsResetValues_resetEdge (s : State) : ShowsResetValues (resetEdge s) := by
  have hframe : (resetEdge s).frame = zeroFrame := rfl
  refine ⟨rfl, rfl, rfl, fun k => ?_, frameOut_of_zeroFrame hframe, fun i hi => ?_, fun i => ?_⟩
  · simp [zeroFrame]
  · exact chRaw_chErr_of_zeroFrame (s := { resetEdge s with chIdx := i }) hframe hi
  · rw [pulseOut_lane, hframe, unpack_zeroFrame, scale_zero]

/-- Settles O12: RESET writes what the state after reset holds, and the outputs are functions of that. -/
theorem resetValuesAndOutputs : Obligations.ResetValuesAndOutputs :=
  ⟨fun _ _ s => ⟨resetEdge s, rfl, rfl, showsResetValues_resetEdge s⟩, showsResetValues_resetEdge State.reset⟩

/-! ## The frame register along a step (R24, R25, R59) -/

/-- A step word is its fields R, V and B (R71). -/
theorem encodeStep_fields (w : StepWord) : encodeStep (stepR w) (stepV w) (stepB w) = w := by
  refine BitVec.eq_of_getLsbD_eq fun i hi => ?_
  rcases Nat.lt_or_ge i 8 with h8 | h8
  · rw [encodeStep, BitVec.getLsbD_or, low_bits_clear _ _ i h8]
    simp [stepB, h8, hi]
  · obtain rfl | rfl : i = 8 ∨ i = 9 := by omega
    · cases hr : stepR w <;> cases hv : stepV w <;> simp_all [encodeStep, stepV]
    · cases hr : stepR w <;> cases hv : stepV w <;> simp_all [encodeStep, stepR]

/-- The only step word that feeds the end marker is 0x100 (R71, R97). -/
theorem stepWord_of_feed_endMarker {w : StepWord} (hr : stepR w = false) (hv : stepV w = true)
    (hb : stepB w = Config.endMarker) : w = 0x100 := by
  rw [← encodeStep_fields w, hr, hv, hb]; rfl

/-- What an edge does to the frame register: nothing, RESET's clearing, or the latch of the whole candidate. -/
theorem edge_frame {w : StepWord} {s t : State} (h : exec (decodeStep w) s = .next t) :
    (t.frame = s.frame ∧ t.frameValid = s.frameValid) ∨
    (stepR w = true ∧ t.frame = zeroFrame ∧ t.frameValid = false) ∨
    (w = 0x100 ∧ s.cnt.toNat = 24 ∧ t.frame = candidate Config.endMarker s ∧ t.frameValid = true) := by
  rcases edge_cases w s with ⟨hr, hexec⟩ | ⟨hr, hv, hexec⟩ | ⟨-, -, hexec⟩
  · cases hexec.symm.trans h
    exact .inr (.inl ⟨hr, rfl, rfl⟩)
  · rcases feedByte_quiet_or_latches (hexec ▸ h) with ⟨hframe, hvalid, -, -⟩ | ⟨h24, hb, rfl⟩
    · exact .inl ⟨hframe, hvalid⟩
    · exact .inr (.inr ⟨stepWord_of_feed_endMarker hr hv hb, h24, by rw [hb]; rfl, rfl⟩)
  · obtain ⟨-, h⟩ := whenCounterInRange_next.mp (hexec ▸ h)
    cases h
    exact .inl ⟨rfl, rfl⟩

/-- Settles O52: a read or an idle cycle leaves the frame register, and an edge does one of three things to it. -/
theorem frameRegisterIsWrittenWhole : Obligations.FrameRegisterIsWrittenWhole := by
  intro s t h
  rcases hx : s.stimulus with _ | ⟨x, rest⟩
  · rw [step, fetch_nil hx] at h
    obtain ⟨-, h⟩ := whenCounterInRange_next.mp h
    cases h
    exact .inl ⟨rfl, rfl⟩
  · rw [step_cons hx] at h
    cases x with
    | stepWord w =>
      rcases edge_frame h with hkept | ⟨hr, hcleared⟩ | ⟨rfl, h24, hlatched⟩
      · exact .inl hkept
      · exact .inr (.inl ⟨w, rest, rfl, (resetMatch_iff w).mpr hr, hcleared⟩)
      · exact .inr (.inr ⟨rest, rfl, BitVec.eq_of_toNat_eq h24, hlatched⟩)
    | indexWord c =>
      obtain ⟨r, hr⟩ := exec_getChannel c (s.setStimulus rest)
      obtain ⟨-, h⟩ := whenCounterInRange_next.mp (hr.symm.trans h)
      cases h
      exact .inl ⟨rfl, rfl⟩
    | readPulses =>
      obtain ⟨-, h⟩ := whenCounterInRange_next.mp h
      cases h
      exact .inl ⟨rfl, rfl⟩

/-! ## The strobe (R32) -/

/-- A byte accepted before the 25th raises no strobe. -/
theorem feedByte_strobe_low {b : Byte} {s t : State} (h : feedByte b s = .next t) (hs : s.cnt.toNat < 24) :
    t.frameStrobe = false := by
  rcases feedByte_quiet_or_latches h with ⟨-, -, hlow, -⟩ | ⟨h24, -, -⟩
  · exact hlow
  · omega

/-- An edge before the 25th byte raises no strobe and counts at most one byte. -/
theorem edge_beforeLast {w : StepWord} {s t : State} (hs : s.cnt.toNat < 24) (h : exec (decodeStep w) s = .next t) :
    t.frameStrobe = false ∧ t.cnt.toNat ≤ s.cnt.toNat + 1 := by
  rcases edge_cases w s with ⟨-, hexec⟩ | ⟨-, -, hexec⟩ | ⟨-, -, hexec⟩
  · cases hexec.symm.trans h
    exact ⟨rfl, Nat.zero_le _⟩
  · have hfeed := hexec.symm.trans h
    exact ⟨feedByte_strobe_low hfeed hs, (feedByte_cnt_le hfeed).1⟩
  · obtain ⟨-, h⟩ := whenCounterInRange_next.mp (hexec ▸ h)
    cases h
    exact ⟨rfl, Nat.le_succ _⟩

theorem step_beforeLast {w : StepWord} {rest : List Stimulus} {s : State} (hstim : s.stimulus = .stepWord w :: rest)
    (hs : s.cnt.toNat < 24) :
    ∃ t, step s = .next t ∧ t.frameStrobe = false ∧ t.cnt.toNat ≤ s.cnt.toNat + 1 ∧ t.stimulus = rest := by
  obtain ⟨t, ht⟩ := exec_completes (decodeStep w) (s := s.setStimulus rest) (Nat.le_of_lt hs)
  obtain ⟨hlow, hcnt⟩ := edge_beforeLast (s := s.setStimulus rest) hs ht
  exact ⟨t, (step_cons hstim).trans ht, hlow, hcnt, exec_stimulus ht⟩

/-- Edges too few to complete a candidate keep the strobe down. -/
theorem runSteps_strobe_stays_low (ws : List StepWord) {s : State} (hstim : s.stimulus = ws.map .stepWord)
    (hs : s.cnt.toNat + ws.length ≤ 24) (hlow : s.frameStrobe = false) :
    ∃ t, runSteps ws.length s = .next t ∧ t.frameStrobe = false := by
  induction ws generalizing s with
  | nil => exact ⟨s, rfl, hlow⟩
  | cons w ws ih =>
    rw [List.length_cons] at hs
    obtain ⟨u, hu, hlow', hcnt, hrest⟩ := step_beforeLast hstim (by omega)
    rw [List.length_cons, runSteps_next hu]
    exact ih hrest (by omega) hlow'

/-- Settles O56: a strobe stands at `cnt = 0`, the first edge takes it down, and 24 edges complete no candidate. -/
theorem strobesAreAtLeast25CyclesApart : Obligations.StrobesAreAtLeast25CyclesApart := by
  rintro s ws ⟨-, -, -, hstrobe⟩ hs h1 h24
  obtain ⟨-, h0⟩ := hstrobe hs
  have hidle : s.cnt.toNat = 0 := by rw [h0]; rfl
  cases ws with
  | nil => simp at h1
  | cons w ws =>
    obtain ⟨u, hu, hlow, hcnt, hrest⟩ := step_beforeLast
      (s := { s with stimulus := (w :: ws).map .stepWord }) rfl
      (show s.cnt.toNat < 24 by omega)
    rw [List.length_cons] at h24 ⊢
    rw [runSteps_next hu]
    simp only [hidle] at hcnt
    exact runSteps_strobe_stays_low ws hrest (by omega) hlow

/-! ## The frame register along a DRAIN (R24, R25, R100) -/

theorem drainFrom_keeps_chIdx {bytes : List Byte} {out : List Frame} {s t : State}
    (h : drainFrom bytes out s = .next t) : t.chIdx = s.chIdx := by
  induction bytes generalizing out s with
  | nil => cases h; rfl
  | cons b bs ih =>
    obtain ⟨u, hfeed, hrest⟩ := drainFrom_cons_next h
    exact (ih hrest).trans (feedByte_keeps_inputs hfeed).1

/-- After frames `fs` were emitted from `s` on, the frame register of `t` is as it was, or holds the last of them. -/
def HoldsLastOf (fs : List Frame) (s t : State) : Prop :=
  (fs = [] ∧ t.frame = s.frame ∧ t.frameValid = s.frameValid) ∨
  (∃ gs f, fs = gs ++ [f] ∧ t.frame = f ∧ t.frameValid = true)

theorem feedByte_holdsLast {b : Byte} {s t : State} (h : feedByte b s = .next t) :
    HoldsLastOf (emitted t.result) s t := by
  rcases feedByte_quiet_or_latches h with ⟨hframe, hvalid, -, hresult⟩ | ⟨-, -, rfl⟩
  · exact .inl ⟨by rw [hresult, emitted_noFrame], hframe, hvalid⟩
  · exact .inr ⟨[], candidate b s, rfl, rfl, rfl⟩

theorem HoldsLastOf.append {fs gs : List Frame} {s t u : State} (hst : HoldsLastOf fs s t) (htu : HoldsLastOf gs t u) :
    HoldsLastOf (fs ++ gs) s u := by
  rcases htu with ⟨rfl, hframe, hvalid⟩ | ⟨hs, f, rfl, hframe, hvalid⟩
  · simpa only [HoldsLastOf, List.append_nil, hframe, hvalid] using hst
  · exact .inr ⟨fs ++ hs, f, (List.append_assoc fs hs [f]).symm, hframe, hvalid⟩

theorem drainFrom_holdsLast {bytes : List Byte} {out : List Frame} {s t : State}
    (h : drainFrom bytes out s = .next t) : ∃ fs, t.result = .frames (out ++ fs) ∧ HoldsLastOf fs s t := by
  induction bytes generalizing out s with
  | nil => cases h; exact ⟨[], by simp, .inl ⟨rfl, rfl, rfl⟩⟩
  | cons b bs ih =>
    obtain ⟨u, hfeed, hrest⟩ := drainFrom_cons_next h
    obtain ⟨fs, hresult, hlast⟩ := ih hrest
    exact ⟨emitted u.result ++ fs, by rw [hresult, List.append_assoc], (feedByte_holdsLast hfeed).append hlast⟩

/-- Settles O27: each FEED writes the frame register only by emitting, and so do FEEDs in turn. -/
theorem drainWritesTheFrameRegisterOnlyByEmitting : Obligations.DrainWritesTheFrameRegisterOnlyByEmitting := by
  intro bytes s t h
  obtain ⟨-, hdrain⟩ := execDrain_next.mp h
  obtain ⟨fs, hresult, hlast⟩ := drainFrom_holdsLast hdrain
  rw [List.nil_append] at hresult
  refine ⟨drainFrom_keeps_chIdx hdrain, exec_stimulus h, ?_⟩
  rcases hlast with ⟨rfl, hkept⟩ | ⟨gs, f, rfl, hlatched⟩
  · exact .inl ⟨hresult, hkept⟩
  · exact .inr ⟨gs, f, hresult, hlatched⟩

/-! ## Collecting a candidate (R30, R76, R99) -/

/-- `t` is `s` after the bytes were appended to the candidate: neither the frame register nor the rest of `buf` changed. -/
structure Collected (bytes : List Byte) (s t : State) : Prop where
  cnt : t.cnt.toNat = s.cnt.toNat + bytes.length
  frame : t.frame = s.frame
  frameValid : t.frameValid = s.frameValid
  front : t.buf.toList.take t.cnt.toNat = s.buf.toList.take s.cnt.toNat ++ bytes
  rest : t.buf.toList.drop t.cnt.toNat = s.buf.toList.drop t.cnt.toNat

theorem Collected.trans {xs ys : List Byte} {s t u : State} (hst : Collected xs s t) (htu : Collected ys t u) :
    Collected (xs ++ ys) s u where
  cnt := by rw [htu.cnt, hst.cnt, List.length_append, Nat.add_assoc]
  frame := htu.frame.trans hst.frame
  frameValid := htu.frameValid.trans hst.frameValid
  front := by rw [htu.front, hst.front, List.append_assoc]
  rest := by
    have hdrop := congrArg (List.drop ys.length) hst.rest
    rwa [List.drop_drop, List.drop_drop, ← htu.cnt, ← htu.rest] at hdrop

/-- A byte written at position `cnt` of `buf`, with `cnt` counted up, is one byte collected. -/
theorem collected_of_write {b : Byte} {s t : State} (hs : s.cnt.toNat < 25) (hcnt : t.cnt.toNat = s.cnt.toNat + 1)
    (hbuf : t.buf = s.buf.set s.cnt.toNat b) (hframe : t.frame = s.frame) (hvalid : t.frameValid = s.frameValid) :
    Collected [b] s t := by
  have hlist : t.buf.toList = s.buf.toList.set s.cnt.toNat b := by rw [hbuf, Vector.toList_set]
  refine ⟨hcnt, hframe, hvalid, ?_, ?_⟩
  · rw [hlist, hcnt, List.take_add_one, List.take_set_of_le le_rfl]
    simp [hs]
  · rw [hlist, hcnt, List.drop_set_of_lt (Nat.lt_succ_self _)]

theorem drainFrom_collects (bytes : List Byte) (out : List Frame) {s : State} (h0 : s.cnt.toNat ≠ 0)
    (h : s.cnt.toNat + bytes.length ≤ 24) :
    ∃ t, drainFrom bytes out s = .next t ∧ t.result = .frames out ∧ Collected bytes s t := by
  induction bytes generalizing s with
  | nil => exact ⟨_, drainFrom_nil out s, rfl, ⟨rfl, rfl, rfl, by simp, rfl⟩⟩
  | cons b bs ih =>
    rw [List.length_cons] at h
    have hn : s.cnt.toNat < 24 := by omega
    have hcnt := collectByte_cnt_toNat hn ⟨s.cnt.toNat, by omega⟩ b
    have hfirst := collected_of_write (by omega) hcnt rfl rfl rfl
    obtain ⟨t, hrest, hresult, hcollected⟩ := ih (by rw [hcnt]; omega) (by rw [hcnt]; omega)
    refine ⟨t, ?_, hresult, hfirst.trans hcollected⟩
    rw [drainFrom_cons (feedByte_collect b h0 hn)]
    simpa [collectByte_eq] using hrest

/-- Settles O31: the start marker is the first byte collected, and the further bytes follow it. -/
theorem candidateCollectsInArrivalOrder : Obligations.CandidateCollectsInArrivalOrder := by
  intro bytes s h0 hlen
  have hidle : s.cnt.toNat = 0 := by rw [h0]; rfl
  have hstart : Collected [Config.startMarker] s (startCandidate Config.startMarker s) :=
    collected_of_write (by omega) (by rw [hidle]; rfl) (by simp [startCandidate_eq, hidle]) rfl rfl
  have hcnt : (startCandidate Config.startMarker s).cnt.toNat = 1 := rfl
  obtain ⟨t, hdrain, hresult, hrest⟩ := drainFrom_collects bytes [] (s := startCandidate Config.startMarker s)
    (by omega) (by omega)
  obtain ⟨hcount, hframe, hvalid, hfront, hback⟩ := hstart.trans hrest
  have hexec : exec (.drain (Config.startMarker :: bytes)) s = .next t :=
    execDrain_next.mpr ⟨by omega, (drainFrom_cons (feedByte_startMarker hidle)).trans hdrain⟩
  have hcount' : t.cnt.toNat = bytes.length + 1 := by rw [hcount, hidle]; simp
  rw [hcount'] at hfront hback
  rw [hidle] at hfront
  exact ⟨t, hexec, hcount', hresult, hframe, hvalid, hfront, hback⟩

end Sys2Proof.Machine
end

section
/-! The buses and fields of the memory layout (20_memory.md R53 to R56), what reads leave unchanged (R60), the latch cycle
(R62), and runs with idle cycles and reads between the bytes (R100, R105). -/

namespace Sys2Proof.Machine

/-! ## The output buses (R56, R124) -/

/-- Field k of a bus wide enough for all the packed entries is entry k. -/
theorem extractLsb'_packLow {n w : Nat} {xs : List (BitVec w)} (hn : w * xs.length ≤ n) {k : Nat} (hk : k < xs.length) :
    (BitVec.ofNat n (packLow w xs)).extractLsb' (w * k) w = xs[k] := by
  have hfits : packLow w xs < 2 ^ n := (packLow_lt w xs).trans_le (Nat.pow_le_pow_right Nat.two_pos hn)
  refine BitVec.eq_of_toNat_eq ?_
  rw [BitVec.extractLsb'_toNat, BitVec.toNat_ofNat, Nat.mod_eq_of_lt hfits, Nat.shiftRight_eq_div_pow,
    packLow_field w xs k hk]

theorem frameOut_byte (s : State) (k : Position) : s.frameOut.extractLsb' (8 * k.val) 8 = s.frame[k] := by
  rw [State.frameOut, extractLsb'_packLow (by simp) (by simp)]
  simp

/-- Bit p of `frame_out` is bit `p % 8` of frame byte `p / 8`. -/
theorem frameOut_bit (s : State) {p : Nat} (hp : p < 200) :
    s.frameOut.getLsbD p = (s.frame[p / 8]'(by omega)).getLsbD (p % 8) := by
  have hbyte := congrArg (BitVec.getLsbD · (p % 8)) (frameOut_byte s ⟨p / 8, by omega⟩)
  simpa [Nat.mod_lt, Nat.div_add_mod] using hbyte

/-- Settles O48: byte k stands from bit 8k on, and the payload begins at byte 1. -/
theorem frameOutBusOrder : Obligations.FrameOutBusOrder := by
  intro s
  refine ⟨frameOut_byte s, fun q => ?_⟩
  have hbyte : (8 + q.val) / 8 = 1 + q.val / 8 := by omega
  have hbit : (8 + q.val) % 8 = q.val % 8 := by omega
  rw [frameOut_bit s (by omega)]
  simp only [payloadBit, hbyte, hbit]

/-! ## The field of a channel (R111, R113) -/

/-- The mask keeps the 11 bits from `sh` on. -/
theorem fieldOf_getLsbD (acc sh : Nat) {t : Nat} (ht : t < 11) : (fieldOf acc sh).getLsbD t = acc.testBit (sh + t) := by
  have hmask : Config.chMask = 2 ^ 11 - 1 := rfl
  rw [fieldOf, hmask, Nat.and_two_pow_sub_one_eq_mod, BitVec.getLsbD_ofNat, Nat.testBit_mod_two_pow,
    Nat.testBit_shiftRight]
  simp [ht]

/-- The field begins at frame bit `8 + 11i`: at bit `sh` of byte k (R110, R111). -/
theorem firstByte_fieldShift (i : ChannelIndex) : 8 * firstByte i + fieldShift i = 8 + 11 * i.val ∧ fieldShift i < 8 := by
  have hshift : fieldShift i = 11 * i.val % 8 := Nat.and_two_pow_sub_one_eq_mod _ 3
  have hfirst : firstByte i = 1 + 11 * i.val / 8 := congrArg (1 + ·) (Nat.shiftRight_eq_div_pow _ 3)
  omega

/-- The minimal span covers the field's 11 bits. -/
theorem field_in_span (i : ChannelIndex) : fieldShift i + 11 ≤ 8 * spanBytes i := by
  have hspan : spanBytes i = (fieldShift i + 11 + 7) / 8 := Nat.shiftRight_eq_div_pow _ 3
  omega

/-- Bit t of channel i is frame bit `8 + 11i + t`, the bits counted from bit 0 of byte 0. -/
theorem unpack_getLsbD (f : Frame) (i : ChannelIndex) {t : Nat} (ht : t < 11) :
    (unpack f i).getLsbD t =
      (f[(8 + 11 * i.val + t) / 8]'(by omega)).getLsbD ((8 + 11 * i.val + t) % 8) := by
  obtain ⟨hsplit, hshift⟩ := firstByte_fieldShift i
  have hspan := field_in_span i
  have hbyte : firstByte i + (fieldShift i + t) / 8 = (8 + 11 * i.val + t) / 8 := by omega
  have hbit : (fieldShift i + t) % 8 = (8 + 11 * i.val + t) % 8 := by omega
  rw [unpack, fieldOf_getLsbD _ _ ht, spanValue_testBit _ _ _ _ _ (by omega)]
  simp only [hbyte, hbit]

theorem chRaw_inRange {s : State} (h : s.chIdx.toNat < 16) : s.chRaw = unpack s.frame ⟨s.chIdx.toNat, h⟩ := by
  simp only [State.chRaw, channelOf_inRange h]

theorem chErr_inRange {s : State} (h : s.chIdx.toNat < 16) : s.chErr = false :=
  decide_eq_false (Nat.not_lt.mpr (Nat.le_of_lt_succ h))

/-- Settles O33: the result is the channel the index selects, whose bits `unpack_getLsbD` locates. -/
theorem getChannelReadsTheSelectedField : Obligations.GetChannelReadsTheSelectedField := by
  intro i s hs hi
  have hi16 : i.toNat < 16 := Nat.lt_succ_of_le hi
  refine ⟨unpack s.frame ⟨i.toNat, hi16⟩, ?_, chRaw_inRange (s := s.setChIdx i) hi16,
    chErr_inRange (s := s.setChIdx i) hi16, fun t => ⟨by omega, unpack_getLsbD s.frame ⟨i.toNat, hi16⟩ t.isLt⟩⟩
  rw [exec_getChannel_inRange (channelOf_inRange hi16), whenCounterInRange_of_le hs]
  rfl

/-! ## What a read leaves unchanged (R60, R119) -/

@[simp] theorem setResult_outputs (s : State) (r : Result) : (s.setResult r).outputs = s.outputs := rfl

theorem setChIdx_outputs (s : State) (c : IndexWord) :
    (s.setChIdx c).outputs = { s.outputs with chRaw := (s.setChIdx c).chRaw, chErr := (s.setChIdx c).chErr } := rfl

/-- Settles O49: GET_CHANNEL writes `ch_idx` and the record of its result, the other reads that record alone. -/
theorem readsChangeNoState : Obligations.ReadsChangeNoState := by
  rintro i s hs (⟨c, rfl⟩ | rfl | ⟨raw, rfl⟩)
  · obtain ⟨r, hr⟩ := exec_getChannel c s
    exact ⟨_, hr.trans (whenCounterInRange_of_le hs _), ⟨rfl, rfl, rfl, rfl, rfl⟩, rfl, setChIdx_outputs s c,
      fun hne => absurd rfl (hne c)⟩
  · exact ⟨_, whenCounterInRange_of_le hs _, ⟨rfl, rfl, rfl, rfl, rfl⟩, rfl, rfl, fun _ => setResult_outputs s _⟩
  · exact ⟨_, whenCounterInRange_of_le hs _, ⟨rfl, rfl, rfl, rfl, rfl⟩, rfl, rfl, fun _ => setResult_outputs s _⟩

/-! ## The latch cycle (R62, R146, R165) -/

/-- The edge of the word 0x100 at `cnt = 24` latches the candidate. -/
theorem step_latches {s : State} {rest : List Stimulus} (h24 : s.cnt = 24) (hstim : s.stimulus = .stepWord 0x100 :: rest) :
    step s = .next (latchCandidate Config.endMarker (s.setStimulus rest)) := by
  have hdecode : decode (.stepWord 0x100) = .feed Config.endMarker := by decide
  have hcnt : (s.setStimulus rest).cnt.toNat = 24 := by rw [setStimulus_cnt, h24]; rfl
  rw [step_cons hstim, hdecode]
  exact feedByte_endMarker hcnt

/-- Settles O51: `frame_out` and `pulse_out` are functions of the frame register, which the latch replaces. -/
theorem latchCycleShowsTheOldFrame : Obligations.LatchCycleShowsTheOldFrame := by
  intro s rest h24 hstim
  refine ⟨frameOut_byte s, pulseOut_lane s, _, step_latches h24 hstim, rfl, rfl, rfl, rfl, fun k => ?_,
    fun i => pulseOut_lane _ i⟩
  rw [frameOut_byte]
  simp only [latchCandidate_eq, candidate, Fin.getElem_fin, Vector.getElem_set, eq_comm (a := 24)]
  rfl

/-! ## Idle cycles and reads between the bytes (R60, R100, R105) -/

/-- `s` and `t` agree on what accepting a byte reads: they may differ in the inputs, the strobe and the latest result. -/
structure SameAssembler (s t : State) : Prop where
  cnt : t.cnt = s.cnt
  buf : t.buf = s.buf
  frame : t.frame = s.frame
  frameValid : t.frameValid = s.frameValid

theorem SameAssembler.eq {s t : State} (h : SameAssembler s t) :
    t = { s with stimulus := t.stimulus, result := t.result, chIdx := t.chIdx, frameStrobe := t.frameStrobe } := by
  obtain ⟨cnt, buf, frame, valid, strobe, chIdx, stimulus, result⟩ := t
  obtain ⟨rfl, rfl, rfl, rfl⟩ := h
  rfl

theorem SameAssembler.trans {s t u : State} (hst : SameAssembler s t) (htu : SameAssembler t u) : SameAssembler s u :=
  ⟨htu.cnt.trans hst.cnt, htu.buf.trans hst.buf, htu.frame.trans hst.frame, htu.frameValid.trans hst.frameValid⟩

theorem SameAssembler.counterInRange {s t : State} (h : SameAssembler s t) (hs : CounterInRange s) :
    CounterInRange t := by
  rwa [CounterInRange, h.cnt]

theorem sameAssembler_setStimulus (s : State) (xs : List Stimulus) : SameAssembler s (s.setStimulus xs) :=
  ⟨rfl, rfl, rfl, rfl⟩

/-- A byte accepted in two such states emits the same and leaves two such states. -/
theorem feedByte_sameAssembler {b : Byte} {s t u : State} (h : SameAssembler s t) (hs : feedByte b s = .next u) :
    ∃ v, feedByte b t = .next v ∧ v.result = u.result ∧ SameAssembler u v := by
  refine ⟨{ u with stimulus := t.stimulus, chIdx := t.chIdx }, ?_, rfl, ⟨rfl, rfl, rfl, rfl⟩⟩
  rw [h.eq, feedByte_reads_no_input, hs]

/-- An idle cycle or a read emits nothing and leaves the assembler as it was. -/
def IsQuiet (i : Instr) : Prop :=
  ∀ s, CounterInRange s → ∃ t, exec i s = .next t ∧ emitted t.result = [] ∧ SameAssembler s t

theorem nop_isQuiet (b : Byte) : IsQuiet (.nop b) :=
  fun _ hs => ⟨_, whenCounterInRange_of_le hs _, rfl, ⟨rfl, rfl, rfl, rfl⟩⟩

theorem getChannels_isQuiet : IsQuiet .getChannels :=
  fun _ hs => ⟨_, whenCounterInRange_of_le hs _, rfl, ⟨rfl, rfl, rfl, rfl⟩⟩

theorem getChannel_isQuiet (c : IndexWord) : IsQuiet (.getChannel c) := by
  intro s hs
  rcases hc : channelOf c with _ | i
  · exact ⟨_, (exec_getChannel_outOfRange hc s).trans (whenCounterInRange_of_le hs _), rfl, ⟨rfl, rfl, rfl, rfl⟩⟩
  · exact ⟨_, (exec_getChannel_inRange hc s).trans (whenCounterInRange_of_le hs _), rfl, ⟨rfl, rfl, rfl, rfl⟩⟩

theorem noReset_cons {x : Stimulus} {xs : List Stimulus} :
    noReset (x :: xs) = true ↔ noReset [x] = true ∧ noReset xs = true := by
  simp [noReset]

theorem fedBytes_cons (x : Stimulus) (xs : List Stimulus) : fedBytes (x :: xs) = fedBytes [x] ++ fedBytes xs :=
  List.filterMap_append (l := [x])

/-- A stimulus other than RESET feeds one byte, or feeds none and is quiet. -/
theorem stimulus_feeds_or_isQuiet {x : Stimulus} (hx : noReset [x] = true) :
    (∃ b, decode x = .feed b ∧ fedBytes [x] = [b]) ∨ (IsQuiet (decode x) ∧ fedBytes [x] = []) := by
  cases x with
  | stepWord w =>
    have hdecode : decode (.stepWord w) = _ := decodeStep_byBits w
    cases hr : stepR w with
    | true =>
      rw [hr, if_pos rfl] at hdecode
      simp [noReset, hdecode] at hx
    | false =>
      rw [hr, if_neg Bool.false_ne_true] at hdecode
      cases hv : stepV w with
      | true =>
        rw [hv, if_pos rfl] at hdecode
        exact .inl ⟨_, hdecode, by simp [fedBytes, hdecode]⟩
      | false =>
        rw [hv, if_neg Bool.false_ne_true] at hdecode
        exact .inr ⟨hdecode ▸ nop_isQuiet _, by simp [fedBytes, hdecode]⟩
  | indexWord c => exact .inr ⟨getChannel_isQuiet c, rfl⟩
  | readPulses => exact .inr ⟨getChannels_isQuiet, rfl⟩

/-- One step beside a DRAIN of the byte it feeds, if it feeds one: both emit the same and stay in the same assembler. -/
theorem step_follows_drain {x : Stimulus} {rest : List Stimulus} {s t : State} (hx : noReset [x] = true)
    (ht : t.stimulus = x :: rest) (hs : CounterInRange s) (hst : SameAssembler s t) (out : List Frame) :
    ∃ s' t', step t = .next t' ∧ t'.stimulus = rest ∧ CounterInRange s' ∧ SameAssembler s' t' ∧
      ∀ bs, drainFrom (fedBytes [x] ++ bs) out s = drainFrom bs (out ++ emitted t'.result) s' := by
  have hrest : SameAssembler s (t.setStimulus rest) := hst.trans (sameAssembler_setStimulus t rest)
  rcases stimulus_feeds_or_isQuiet hx with ⟨b, hdecode, hfed⟩ | ⟨hquiet, hfed⟩
  · obtain ⟨s', hs'⟩ := feedByte_completes b hs
    obtain ⟨t', ht', hresult, hsame⟩ := feedByte_sameAssembler hrest hs'
    refine ⟨s', t', ?_, (feedByte_keeps_inputs ht').2, counterInRange_kept.feed hs hs', hsame, fun bs => ?_⟩
    · rw [step_cons ht, hdecode]; exact ht'
    · rw [hfed, hresult]; exact drainFrom_cons hs'
  · obtain ⟨t', ht', hemit, hsame⟩ := hquiet _ (hrest.counterInRange hs)
    refine ⟨s, t', (step_cons ht).trans ht', exec_stimulus ht', hs, hrest.trans hsame, fun bs => ?_⟩
    rw [hfed, hemit, List.append_nil, List.nil_append]

/-- A run through stimuli without RESET keeps beside the DRAIN of the bytes they feed. -/
theorem runSteps_follows_drain (xs : List Stimulus) {s t : State} (hxs : noReset xs = true) (ht : t.stimulus = xs)
    (hs : CounterInRange s) (hst : SameAssembler s t) (out : List Frame) :
    ∃ s' t', drainFrom (fedBytes xs) out s = .next s' ∧ runSteps xs.length t = .next t' ∧ SameAssembler s' t' ∧
      s'.result = .frames (out ++ emissions xs.length t) := by
  induction xs generalizing s t out with
  | nil => exact ⟨_, t, drainFrom_nil out s, rfl, ⟨hst.cnt, hst.buf, hst.frame, hst.frameValid⟩, by simp⟩
  | cons x rest ih =>
    obtain ⟨hx, hrest⟩ := noReset_cons.mp hxs
    obtain ⟨s₁, t₁, hstep, ht₁, hs₁, hsame, hdrain⟩ := step_follows_drain hx ht hs hst out
    obtain ⟨s', t', hdrain', hrun, hsame', hresult⟩ := ih hrest ht₁ hs₁ hsame (out ++ emitted t₁.result)
    refine ⟨s', t', ?_, ?_, hsame', ?_⟩
    · rw [fedBytes_cons, hdrain, hdrain']
    · rw [List.length_cons, runSteps_next hstep, hrun]
    · rw [hresult, List.length_cons, emissions_next hstep, List.append_assoc]

/-- Settles O32: the run and the DRAIN start in the same assembler. -/
theorem idleCyclesAndReadsDoNotChangeTheFrames : Obligations.IdleCyclesAndReadsDoNotChangeTheFrames := by
  intro xs s hxs hs
  obtain ⟨t, u, hdrain, hrun, hsame, hresult⟩ :=
    runSteps_follows_drain xs hxs rfl hs (sameAssembler_setStimulus s xs) []
  exact ⟨t, u, execDrain_next.mpr ⟨hs, hdrain⟩, hrun, hsame.cnt, hsame.buf, hsame.frame, hsame.frameValid, hresult⟩

end Sys2Proof.Machine
end

section
/-! The words of the two formats: decoding against encoding, the layout in whole bytes, ignored fields, and the index read
as a signed and as an unsigned number (30_encoding.md R70 to R84). -/

namespace Sys2Proof

/-! ## The operation map of format S (R71, R72) -/

/-- The test `w & 0x300 = 0x000` of NOP is R and V clear (R72). -/
theorem nopMatch_iff (w : StepWord) : w &&& 0x300 = 0x000 ↔ stepR w = false ∧ stepV w = false := by
  constructor
  · intro h
    have h9 := congrArg (fun x => BitVec.getLsbD x 9) h
    have h8 := congrArg (fun x => BitVec.getLsbD x 8) h
    simp at h9 h8
    exact ⟨h9, h8⟩
  · rintro ⟨h9, h8⟩
    refine BitVec.eq_of_getLsbD_eq fun i hi => ?_
    rw [BitVec.getLsbD_and]
    interval_cases i <;> simp_all [stepR, stepV]

theorem stepR_eq_false_of_mask {w : StepWord} (h : w &&& 0x200 = 0x000) : stepR w = false := by
  rw [← Bool.not_eq_true, ← resetMatch_iff, h]
  decide

theorem decodeStep_eq_reset_iff (w : StepWord) : decodeStep w = .reset (stepV w) (stepB w) ↔ stepR w = true := by
  rw [decodeStep_byBits]
  cases stepR w <;> cases stepV w <;> simp

theorem decodeStep_eq_feed_iff (w : StepWord) :
    decodeStep w = .feed (stepB w) ↔ stepR w = false ∧ stepV w = true := by
  rw [decodeStep_byBits]
  cases stepR w <;> cases stepV w <;> simp

theorem decodeStep_eq_nop_iff (w : StepWord) :
    decodeStep w = .nop (stepB w) ↔ stepR w = false ∧ stepV w = false := by
  rw [decodeStep_byBits]
  cases stepR w <;> cases stepV w <;> simp

/-- Settles O1: each word is in the layout of its format, and its operation is computed. -/
theorem writtenWordsDecodeToTheirOperations : Obligations.WrittenWordsDecodeToTheirOperations := by
  unfold Obligations.WrittenWordsDecodeToTheirOperations
  decide

/-- Settles O2: the three tests read the bits R and V alone, and so does the decoder. -/
theorem stepWordMapSelectsOneOperation : Obligations.StepWordMapSelectsOneOperation := by
  intro w
  refine ⟨?_, ?_, ?_, ?_, (resetMatch_iff w).trans (decodeStep_eq_reset_iff w).symm,
    (feedMatch_iff w).trans (decodeStep_eq_feed_iff w).symm, (nopMatch_iff w).trans (decodeStep_eq_nop_iff w).symm⟩
  · rw [resetMatch_iff, feedMatch_iff, nopMatch_iff]
    cases stepR w <;> cases stepV w <;> decide
  · rw [resetMatch_iff, feedMatch_iff]
    simp +contextual
  · rw [resetMatch_iff, nopMatch_iff]
    simp +contextual
  · rw [feedMatch_iff, nopMatch_iff]
    simp +contextual

/-! ## Decoding against encoding (R71, R73, R83, R100, R120) -/

theorem decodeStep_encodeStep (r v : Bool) (b : Byte) :
    decodeStep (encodeStep r v b) = if r then .reset v b else if v then .feed b else .nop b := by
  rw [decodeStep_byBits, stepR_encodeStep, stepV_encodeStep, stepB_encodeStep]

/-- No bit of a step word is lost by decoding it: its fields are the operands, and they are the whole word. -/
theorem encode_decodeStep (w : StepWord) : encode (decodeStep w) = [.stepWord w] := by
  have hfields := Machine.encodeStep_fields w
  cases hr : stepR w with
  | true =>
    rw [hr] at hfields
    rw [(decodeStep_eq_reset_iff w).mpr hr, encode, hfields]
  | false =>
    cases hv : stepV w with
    | true =>
      rw [hr, hv] at hfields
      rw [(decodeStep_eq_feed_iff w).mpr ⟨hr, hv⟩, encode, hfields]
    | false =>
      rw [hr, hv] at hfields
      rw [(decodeStep_eq_nop_iff w).mpr ⟨hr, hv⟩, encode, hfields]

theorem encode_decode (x : Stimulus) : encode (decode x) = [x] := by
  cases x with
  | stepWord w => exact encode_decodeStep w
  | indexWord w => rfl
  | readPulses => rfl

/-- Settles O3: the format S cases by the fields of an encoded step word; the others have one operand or none. -/
theorem decodeInvertsEncode : Obligations.DecodeInvertsEncode := by
  refine ⟨fun i _ hscale hdrain => ?_, fun bytes => ?_, fun _ => rfl, encode_decode⟩
  · cases i with
    | reset v b => exact ⟨_, rfl, decodeStep_encodeStep true v b⟩
    | feed b => exact ⟨_, rfl, decodeStep_encodeStep false true b⟩
    | nop b => exact ⟨_, rfl, decodeStep_encodeStep false false b⟩
    | getChannel i => exact ⟨_, rfl, rfl⟩
    | getChannels => exact ⟨_, rfl, rfl⟩
    | scale raw => exact absurd rfl (hscale raw)
    | drain bytes => exact absurd rfl (hdrain bytes)
  · rw [encode, List.map_map]
    exact List.map_congr_left fun b _ => decodeStep_encodeStep false true b

/-! ## The layout in whole bytes (R70; log 11) -/

theorem wordStimulus_oneByte (w : Nat) : wordStimulus 8 w =
    if w < 256 then .ok (.indexWord (BitVec.ofNat 8 w)) else .error .bitsBeyondFormat := rfl

theorem wordStimulus_twoBytes (w : Nat) : wordStimulus 16 w =
    if w < 1024 then .ok (.stepWord (BitVec.ofNat 10 w)) else .error .bitsBeyondFormat := rfl

theorem wordStimulus_longer {nbits : Nat} (h : 16 < nbits) (w : Nat) : wordStimulus nbits w = .error .noFormat :=
  if_pos (.inr h)

theorem decodeTableWord_ok {nbits w : Nat} {x : Stimulus} (h : wordStimulus nbits w = .ok x) :
    decodeTableWord nbits w = some (decode x) := by
  simp [decodeTableWord, decodeWord, h]

theorem decodeTableWord_error {nbits w : Nat} {e : DecodeError} (h : wordStimulus nbits w = .error e) :
    decodeTableWord nbits w = none := by
  simp [decodeTableWord, decodeWord, h]

/-- Settles O4: a word decodes exactly when it stands for a stimulus, which its length and its width decide. -/
theorem onlyFormatWordsDecode : Obligations.OnlyFormatWordsDecode := by
  refine ⟨fun w => ?_, fun w => ?_, fun nbits w h => decodeTableWord_error (wordStimulus_longer h w)⟩
  · by_cases hw : w < 256
    · rw [if_pos hw, decodeTableWord_ok ((wordStimulus_oneByte w).trans (if_pos hw))]; rfl
    · rw [if_neg hw, decodeTableWord_error ((wordStimulus_oneByte w).trans (if_neg hw))]
  · by_cases hw : w < 1024
    · rw [if_pos hw, decodeTableWord_ok ((wordStimulus_twoBytes w).trans (if_pos hw))]
    · rw [if_neg hw, decodeTableWord_error ((wordStimulus_twoBytes w).trans (if_neg hw))]

/-! ## The pseudo-statements (R82, R83) -/

theorem encodeStep_feed (b : Byte) : encodeStep false true b = 0x100 ||| b.setWidth 10 := by
  simp [encodeStep]

/-- A statement repeated `k` times stands for its one item repeated `k` times. -/
theorem replicate_flatMap_expand {x : Statement} {item : ProgramItem} (h : x.expand = [item]) (k : Nat) :
    (List.replicate k x).flatMap Statement.expand = List.replicate k item := by
  rw [List.flatMap_replicate, h, List.flatten_replicate_singleton]

/-- Settles O5: a map is the concatenation of its one-item lists. -/
theorem statementsExpandToTheirWords : Obligations.StatementsExpandToTheirWords :=
  ⟨rfl, rfl, fun b => congrArg (fun w => [ProgramItem.stepWord w]) (encodeStep_feed b), fun _ => rfl, rfl, fun _ _ => rfl,
    fun _ => List.map_eq_flatMap, fun _ => List.map_eq_flatMap,
    fun k => (replicate_flatMap_expand rfl k).symm, fun _ k => (replicate_flatMap_expand rfl k).symm⟩

end Sys2Proof

namespace Sys2Proof.Machine

/-! ## The step on nothing and on a placed word (R84; log 2, log 11) -/

/-- Settles O7, by what is fetched from an empty list. -/
theorem stepWithNothingDrivenIsANop : Obligations.StepWithNothingDrivenIsANop := by
  intro s h
  rw [step, fetch_nil h]

theorem step_withFetchWord {nbits w : Nat} {x : Stimulus} (h : wordStimulus nbits w = .ok x) (s : State) :
    step (s.withFetchWord nbits w) = exec (decode x) s := by
  rw [State.withFetchWord, placeWord_ok h]
  exact step_head s x s.stimulus

/-- Settles O8: a word within its format stands for a stimulus, which is placed in front. -/
theorem placedWordIsRunByTheNextStep : Obligations.PlacedWordIsRunByTheNextStep :=
  fun s => ⟨fun w hw => step_withFetchWord ((wordStimulus_twoBytes w).trans (if_pos hw)) s,
    fun w hw => step_withFetchWord ((wordStimulus_oneByte w).trans (if_pos hw)) s⟩

/-! ## Ignored fields and the unreachable counter (R79, R81, U2) -/

theorem exec_decodeStep_reset {w : StepWord} (hr : stepR w = true) (s : State) :
    exec (decodeStep w) s = .next (resetEdge s) := by
  rw [(decodeStep_eq_reset_iff w).mpr hr]; rfl

theorem exec_decodeStep_nop {w : StepWord} (hr : stepR w = false) (hv : stepV w = false) (s : State) :
    exec (decodeStep w) s = s.whenCounterInRange (.next (quietEdge s)) := by
  rw [(decodeStep_eq_nop_iff w).mpr ⟨hr, hv⟩]; rfl

/-- Settles O14: both words are RESETs or both are NOPs, and neither operation has an operand in its effect. -/
theorem ignoredFieldsHaveNoEffect : Obligations.IgnoredFieldsHaveNoEffect := by
  intro s w w' rest h
  calc step (s.setStimulus (.stepWord w :: rest))
      = exec (decodeStep w) (s.setStimulus rest) := step_head s (.stepWord w) rest
    _ = exec (decodeStep w') (s.setStimulus rest) := by
        rcases h with ⟨hr, hr'⟩ | ⟨hr, hv, hr', hv'⟩
        · rw [exec_decodeStep_reset hr, exec_decodeStep_reset hr']
        · rw [exec_decodeStep_nop hr hv, exec_decodeStep_nop hr' hv']
    _ = step (s.setStimulus (.stepWord w' :: rest)) := (step_head s (.stepWord w') rest).symm

/-- Only a step word with R set decodes to RESET (R72). -/
theorem decode_ne_reset {x : Stimulus} (hx : ∀ w, x = .stepWord w → stepR w = false) (v : Bool) (b : Byte) :
    decode x ≠ .reset v b := by
  cases x with
  | stepWord w =>
    have hdecode : decode (.stepWord w) = _ := decodeStep_byBits w
    rw [hdecode, if_neg (Bool.eq_false_iff.mp (hx w rfl))]
    split <;> nofun
  | indexWord w => nofun
  | readPulses => nofun

/-- Settles O22: a step is an operation other than RESET unless it takes a word with R set. -/
theorem unreachableCounterStopsAllButReset : Obligations.UnreachableCounterStopsAllButReset := by
  intro s hs
  refine ⟨fun i hi => exec_counterUnreachable hi hs, fun v b => ⟨resetEdge s, rfl, resetEdge_cnt s⟩, fun hw => ?_⟩
  rcases hstim : s.stimulus with _ | ⟨x, rest⟩
  · rw [stepWithNothingDrivenIsANop s hstim]
    exact exec_counterUnreachable nofun hs
  · rw [step_cons hstim]
    have hx : ∀ w, x = .stepWord w → stepR w = false :=
      fun w h => stepR_eq_false_of_mask (hw w rest (h ▸ hstim))
    exact exec_counterUnreachable (decode_ne_reset hx) hs

/-! ## The index as a signed and as an unsigned number (R75, U9) -/

theorem toInt_mem_channels_iff (i : IndexWord) : (0 ≤ i.toInt ∧ i.toInt ≤ 15) ↔ i.toNat ≤ 15 := by
  rw [BitVec.toInt_eq_toNat_cond]
  split <;> omega

theorem getChannelAt_error (f : Frame) {i : Int} (h : ¬ (0 ≤ i ∧ i ≤ 15)) : getChannelAt f i = .error i :=
  dif_neg h

/-- On 0..15 the signed reading of an index is its unsigned one. -/
theorem getChannelAt_toInt (f : Frame) {i : IndexWord} (h : i.toNat < 16) :
    getChannelAt f i.toInt = .ok (unpack f ⟨i.toNat, h⟩) := by
  have hi : i.toInt = i.toNat := BitVec.toInt_eq_toNat_of_lt (by omega)
  simp [getChannelAt, hi, Nat.le_of_lt_succ h]

/-- Settles O35: on 0..15 both reads unpack the same channel, and elsewhere both are the error and no value. -/
theorem signedAndUnsignedIndicesAgree : Obligations.SignedAndUnsignedIndicesAgree := by
  refine ⟨toInt_mem_channels_iff, fun i s v hs => ?_, fun f i h => getChannelAt_error f (by omega)⟩
  by_cases hi : i.toNat < 16
  · rw [exec_getChannel_inRange (channelOf_inRange hi), whenCounterInRange_of_le hs, getChannelAt_toInt s.frame hi]
    constructor
    · intro h
      exact congrArg _ (Result.raw.inj (congrArg State.result (Host.Outcome.next.inj h)))
    · intro h
      rw [Except.ok.inj h]; rfl
  · have hout : 15 < i.toNat := Nat.lt_of_not_le fun h => hi (Nat.lt_succ_of_le h)
    rw [exec_getChannel_outOfRange (channelOf_outOfRange hout), whenCounterInRange_of_le hs,
      getChannelAt_error s.frame (fun h => hi (Nat.lt_succ_of_le ((toInt_mem_channels_iff i).mp h)))]
    constructor
    · intro h
      exact nomatch congrArg State.result (Host.Outcome.next.inj h)
    · nofun

end Sys2Proof.Machine
end

section
/-! Programs: their encoding beside the steps, their start state, and the state each CHECK observes (30_encoding.md R82,
R84). -/

namespace Sys2Proof.Machine

/-! ## The encoding of a program (R84) -/

theorem encodeProgram_items (items : List ProgramItem) : (encodeProgram items).items = items := by
  induction items with
  | nil => rfl
  | cons x rest ih =>
    cases x with
    | stepWord w => exact congrArg (ProgramItem.stepWord w :: ·) ih
    | beside o => exact congrArg (ProgramItem.beside o :: ·) ih

theorem encodeProgram_words (items : List ProgramItem) :
    (encodeProgram items).steps.map (·.word) = stepWords items := by
  induction items with
  | nil => rfl
  | cons x rest ih =>
    cases x with
    | stepWord w => exact congrArg (w :: ·) ih
    | beside o => exact ih

theorem encodeProgram_steps_length (items : List ProgramItem) :
    (encodeProgram items).steps.length = (stepWords items).length := by
  rw [← encodeProgram_words, List.length_map]

/-- A step word begins a new step: nothing from it on stands beside an earlier one. -/
theorem encodeProgram_append_stepWord (pre : List ProgramItem) (w : StepWord) (rest : List ProgramItem) :
    encodeProgram (pre ++ .stepWord w :: rest) =
      ⟨(encodeProgram pre).atStart, (encodeProgram pre).steps ++ (encodeProgram (.stepWord w :: rest)).steps⟩ := by
  induction pre with
  | nil => rfl
  | cons x pre ih =>
    cases x with
    | stepWord w' => simp only [List.cons_append, encodeProgram, ih]
    | beside o => simp only [List.cons_append, encodeProgram, ih]

/-- Up to the next step word, all items stand beside the step before them. -/
theorem encodeProgram_atStart (os : List Beside) {post : List ProgramItem} (hpost : ∀ o rest, post ≠ .beside o :: rest) :
    (encodeProgram (os.map .beside ++ post)).atStart = os := by
  induction os with
  | nil =>
    match post with
    | [] => rfl
    | .stepWord w :: rest => rfl
    | .beside o :: rest => exact absurd rfl (hpost o rest)
  | cons o os ih => exact congrArg (o :: ·) ih

/-- Settles O59: a step's place among the steps is the number of step words before it; RESET answers `resetEdge`. -/
theorem programIsStepWordsWithItsObservationsBesideThem :
    Obligations.ProgramIsStepWordsWithItsObservationsBesideThem := by
  refine ⟨fun items => ⟨encodeProgram_items items, encodeProgram_words items⟩, fun pre w os post hpost => ?_,
    fun p before t v b h => ?_, fun p before t => rfl⟩
  · rw [encodeProgram_append_stepWord, ← encodeProgram_steps_length, List.getElem?_append_right (le_refl _),
      Nat.sub_self, encodeProgram, encodeProgram_atStart os hpost]
    rfl
  · have ht : resetEdge before = t := Host.Outcome.next.inj h
    exact ht ▸ startState_eq _ before

/-! ## The state at a CHECK (R82, R84) -/

theorem runSteps_fault {s : State} {r : Fault} (h : step s = .fault r) (k : Nat) : runSteps (k + 1) s = .fault r := by
  simp [runSteps, h]

theorem runSteps_refused {s : State} {r : Refusal} (h : step s = .refused r) (k : Nat) :
    runSteps (k + 1) s = .refused r := by
  simp [runSteps, h]

/-- Steps through `xs` do what they do with nothing behind `xs`, and leave what is behind it pending. -/
theorem runSteps_withPending (xs ys : List Stimulus) (s : State) :
    runSteps xs.length (s.setStimulus (xs ++ ys)) = withPending ys (runSteps xs.length (s.setStimulus xs)) := by
  induction xs generalizing s with
  | nil => rfl
  | cons x xs ih =>
    have hfull : step (s.setStimulus (x :: xs ++ ys)) = withPending (xs ++ ys) (exec (decode x) s) :=
      exec_withPending (decode x) s (xs ++ ys)
    have halone : step (s.setStimulus (x :: xs)) = withPending xs (exec (decode x) s) :=
      exec_withPending (decode x) s xs
    rw [List.length_cons]
    rcases hexec : exec (decode x) s with t | r | r
    · rw [hexec] at hfull halone
      rw [runSteps_next hfull, runSteps_next halone]
      exact ih t
    · rw [hexec] at hfull halone
      rw [runSteps_fault hfull, runSteps_fault halone]; rfl
    · rw [hexec] at hfull halone
      rw [runSteps_refused hfull, runSteps_refused halone]; rfl

theorem assemble_check (pre post : List Statement) (name : Observable) (v : Nat) :
    assemble (pre ++ .check name v :: post) = assemble pre ++ .beside (.check name v) :: assemble post := by
  rw [assemble_append, assemble_cons]; rfl

theorem stimuli_assemble_check (pre post : List Statement) (name : Observable) (v : Nat) :
    stimuli (assemble (pre ++ .check name v :: post)) = stimuli (assemble pre) ++ stimuli (assemble post) := by
  rw [assemble_check, stimuli_append, stimuli_check]

theorem checkPoint_mem (start : Option State) (pre post : List Statement) (name : Observable) (v : Nat) :
    ⟨(stimuli (assemble pre)).length, name, v⟩ ∈ (Program.mk start (pre ++ .check name v :: post)).checkPoints := by
  rw [Program.checkPoints, assemble_check, checkPointsFrom_append, Nat.zero_add]
  exact List.mem_append_right _ List.mem_cons_self

/-- All checks hold exactly when each state at its point is reached and has the value stated (R82). -/
theorem checksHold_iff (p : Program) (before : State) : p.checksHold before = true ↔
    ∀ c ∈ p.checkPoints, ∃ t, p.stateAt before c = .next t ∧ t.observe c.name = c.v := by
  rw [Program.checksHold, List.all_eq_true]
  refine forall₂_congr fun c _ => ?_
  rcases p.stateAt before c with t | r | r
  · simp [CheckPoint.holdsIn]
  · simp
  · simp

/-- No observable shows the pending stimulus. -/
theorem observe_setStimulus (s : State) (xs : List Stimulus) (name : Observable) :
    (s.setStimulus xs).observe name = s.observe name := by
  cases name <;> rfl

/-- Settles O60: the part before the CHECK runs alike with the part after it pending, which no observable shows. -/
theorem checkObservesTheStateAtItsPoint : Obligations.CheckObservesTheStateAtItsPoint := by
  refine ⟨fun start pre post name v before t => ?_, checksHold_iff⟩
  intro n p
  have hmem : ⟨n, name, v⟩ ∈ p.checkPoints := checkPoint_mem start pre post name v
  refine ⟨?_, hmem, fun hrun => ?_⟩
  · rw [stimuli_assemble_check, assemble_append, stimuli_append]
  · have hstate : p.stateAt before ⟨n, name, v⟩ = .next (t.setStimulus (stimuli (assemble post))) := by
      rw [Program.stateAt, startState_eq, stimuli_assemble_check]
      exact (runSteps_withPending _ _ _).trans (congrArg (withPending _) hrun)
    refine ⟨hstate, fun hchecks => ?_⟩
    obtain ⟨u, hu, hvalue⟩ := (checksHold_iff p before).mp hchecks _ hmem
    cases hstate.symm.trans hu
    exact (observe_setStimulus t _ name).symm.trans hvalue

end Sys2Proof.Machine
end

section
/-! The edges of the frame assembler as records, the idle cycles between bytes, and what a FEED emits
(40_frame_assembler.md R90 to R98, R143). -/

namespace Sys2Proof.Machine

/-! ## RESET and NOP (R91, R92) -/

/-- Settles O10: the writes of the reset edge are the record's. -/
theorem resetWritesItsConstants : Obligations.ResetWritesItsConstants :=
  fun _ _ _ => rfl

theorem exec_nop (b : Byte) {s : State} (hs : CounterInRange s) : exec (.nop b) s = .next (quietEdge s) :=
  whenCounterInRange_of_le hs _

/-- Settles O15: a NOP is the quiet edge. -/
theorem nopClearsOnlyTheStrobe : Obligations.NopClearsOnlyTheStrobe :=
  fun b _ hs => exec_nop b hs

/-! ## FEED, case by case (R93 to R98) -/

theorem cnt_toNat_of_idle {s : State} (h : s.cnt = 0) : s.cnt.toNat = 0 := by rw [h]; rfl

theorem cnt_toNat_of_last {s : State} (h : s.cnt = 24) : s.cnt.toNat = 24 := by rw [h]; rfl

/-- Settles O17: the first case of `feedByte`, where the byte becomes byte 0 of a candidate. -/
theorem feedStartMarkerInIdle : Obligations.FeedStartMarkerInIdle :=
  fun _ h => feedByte_startMarker (cnt_toNat_of_idle h)

/-- Settles O18: the edge is quiet, like a NOP's. -/
theorem feedOtherByteInIdle : Obligations.FeedOtherByteInIdle :=
  fun _ _ h hb => feedByte_skip (cnt_toNat_of_idle h) hb

/-- Settles O19: the position written is the counter, which is counted up without wrapping. -/
theorem feedStoresInCollecting : Obligations.FeedStoresInCollecting := by
  rintro b s n hn h1 rfl
  have hcnt : s.cnt + 1 = BitVec.ofNat 5 (s.cnt.toNat + 1) := by bv_omega
  have hfeed : exec (.feed b) s = .next (collectByte ⟨s.cnt.toNat, by omega⟩ b s) :=
    feedByte_collect b (by omega) (by omega)
  rw [hfeed, collectByte_eq, hcnt]

/-- Settles O20: the frame latched is the candidate with the end marker. -/
theorem feedEndMarkerLatchesTheFrame : Obligations.FeedEndMarkerLatchesTheFrame := by
  intro s h
  refine ⟨candidate Config.endMarker s, fun k hk => ?_, Vector.getElem_set_self _,
    feedByte_endMarker (cnt_toNat_of_last h)⟩
  exact Vector.getElem_set_ne _ _ (by omega)

/-- Settles O21: the last case of `feedByte`, which writes no part of the frame register. -/
theorem feedOtherByteDiscardsTheCandidate : Obligations.FeedOtherByteDiscardsTheCandidate :=
  fun _ _ h hb => feedByte_discard (cnt_toNat_of_last h) hb

/-! ## What a FEED emits (R95, R97) -/

/-- Settles O23: an accepted byte is quiet or latches, and it latches when it is the end marker at `cnt = 24`. -/
theorem feedEmitsExactlyAtAValidLatch : Obligations.FeedEmitsExactlyAtAValidLatch := by
  intro b s t h
  rcases feedByte_quiet_or_latches h with ⟨-, -, hlow, hnone⟩ | ⟨h24, hb, rfl⟩
  · have hno : ¬ (s.cnt = 24 ∧ b = 0x00) := by
      rintro ⟨h24, rfl⟩
      cases h.symm.trans (feedByte_endMarker (cnt_toNat_of_last h24))
      cases hnone
    exact ⟨iff_of_false (by simp [hnone]) hno, iff_of_false (by simp [hlow]) hno, .inl hnone⟩
  · have hlatch : s.cnt = 24 ∧ b = 0x00 := ⟨BitVec.eq_of_toNat_eq h24, hb⟩
    exact ⟨iff_of_true ⟨_, rfl⟩ hlatch, iff_of_true rfl hlatch, .inr ⟨_, rfl, rfl, rfl, frameOut_byte _⟩⟩

/-! ## Idle cycles (R92, R143) -/

theorem step_nop {s : State} {rest : List Stimulus} (hs : CounterInRange s) (hstim : s.stimulus = .stepWord 0x000 :: rest) :
    step s = .next (quietEdge (s.setStimulus rest)) := by
  have hdecode : decode (.stepWord 0x000) = .nop 0x00 := by decide
  rw [step_cons hstim, hdecode]
  exact exec_nop 0x00 hs

/-- One or more idle words leave what the first of them leaves. -/
theorem runSteps_nops (k : Nat) {s : State} (hs : CounterInRange s)
    (hstim : s.stimulus = List.replicate (k + 1) (.stepWord 0x000)) :
    runSteps (k + 1) s = .next (quietEdge (s.setStimulus [])) ∧ emissions (k + 1) s = [] := by
  have hstep := step_nop hs hstim
  induction k generalizing s with
  | zero => exact ⟨runSteps_next hstep, emissions_next hstep⟩
  | succ k ih =>
    obtain ⟨hrun, hemit⟩ := ih (s := quietEdge (s.setStimulus (List.replicate (k + 1) (.stepWord 0x000)))) hs rfl
      (step_nop hs rfl)
    exact ⟨(runSteps_next hstep).trans hrun, (emissions_next hstep).trans hemit⟩

theorem scale_isQuiet (raw : Raw) : IsQuiet (.scale raw) :=
  fun _ hs => ⟨_, whenCounterInRange_of_le hs _, rfl, ⟨rfl, rfl, rfl, rfl⟩⟩

/-- Settles O24: with no byte to feed, only the result is written. -/
theorem emptyDrainChangesNothing : Obligations.EmptyDrainChangesNothing :=
  fun s hs => execDrain_next.mpr ⟨hs, drainFrom_nil [] s⟩

theorem drain_nil_isQuiet : IsQuiet (.drain []) :=
  fun s hs => ⟨_, emptyDrainChangesNothing s hs, rfl, ⟨rfl, rfl, rfl, rfl⟩⟩

/-- An operation other than RESET that answers a next state found a counter that has a meaning. -/
theorem counterInRange_of_exec {i : Instr} {s t : State} (hi : ∀ v b, i ≠ .reset v b) (h : exec i s = .next t) :
    CounterInRange s := by
  by_contra hs
  cases h.symm.trans (exec_counterUnreachable hi (Nat.lt_of_not_le hs))

theorem IsQuiet.cnt_eq {i : Instr} {s t : State} (hq : IsQuiet i) (hi : ∀ v b, i ≠ .reset v b)
    (h : exec i s = .next t) : t.cnt = s.cnt := by
  obtain ⟨u, hu, -, hsame⟩ := hq s (counterInRange_of_exec hi h)
  cases h.symm.trans hu
  exact hsame.cnt

/-- Settles O16: idle edges are idempotent, and every operation but RESET, FEED and a DRAIN of a byte is quiet. -/
theorem partialFrameWaitsThroughIdleCycles : Obligations.PartialFrameWaitsThroughIdleCycles := by
  refine ⟨fun k s hk hs => ?_, fun i s t h hne => ?_⟩
  · obtain ⟨k, rfl⟩ := Nat.exists_eq_add_of_le' hk
    exact runSteps_nops k (s := s.setStimulus (List.replicate (k + 1) (.stepWord 0x000))) hs rfl
  · cases i with
    | reset v b => exact .inl ⟨v, b, rfl⟩
    | feed b => exact .inr (.inl ⟨b, rfl⟩)
    | nop b => exact absurd ((nop_isQuiet b).cnt_eq nofun h) hne
    | getChannel c => exact absurd ((getChannel_isQuiet c).cnt_eq nofun h) hne
    | getChannels => exact absurd (getChannels_isQuiet.cnt_eq nofun h) hne
    | scale raw => exact absurd ((scale_isQuiet raw).cnt_eq nofun h) hne
    | drain bytes =>
      cases bytes with
      | nil => exact absurd (drain_nil_isQuiet.cnt_eq nofun h) hne
      | cons b bytes => exact .inr (.inr ⟨b, bytes, rfl⟩)

end Sys2Proof.Machine
end

section
/-! DRAIN as FEED steps, the number of frames it yields, and whole frames fed from Idle (40_frame_assembler.md R100 to
R104). -/

namespace Sys2Proof.Machine

/-! ## DRAIN and its FEED steps (R83, R100) -/

theorem decode_feedWord (b : Byte) : decode (.stepWord (encodeStep false true b)) = .feed b :=
  decodeStep_encodeStep false true b

theorem step_feeds {b : Byte} {s t : State} (h : feedByte b s = .next t) (bs : List Byte) (rest : List Stimulus) :
    step (s.setStimulus (feeds (b :: bs) ++ rest)) = .next (t.setStimulus (feeds bs ++ rest)) := by
  have hstep : step (s.setStimulus (feeds (b :: bs) ++ rest)) = exec (.feed b) (s.setStimulus (feeds bs ++ rest)) :=
    decode_feedWord b ▸ step_head s _ _
  rw [hstep, exec_withPending]
  exact congrArg (withPending _) h

/-- The FEED steps of the bytes leave the block a DRAIN of them leaves, and emit the frames it adds to its list. -/
theorem drainFrom_runs_feeds {bytes : List Byte} {out : List Frame} {s t : State} (rest : List Stimulus)
    (h : drainFrom bytes out s = .next t) :
    ∃ u, runSteps bytes.length (s.setStimulus (feeds bytes ++ rest)) = .next u ∧ SameBlock u t ∧ u.stimulus = rest ∧
      t.result = .frames (out ++ emissions bytes.length (s.setStimulus (feeds bytes ++ rest))) := by
  induction bytes generalizing out s with
  | nil => cases h; exact ⟨_, rfl, ⟨rfl, rfl, rfl, rfl, rfl⟩, rfl, by simp⟩
  | cons b bs ih =>
    obtain ⟨v, hfeed, hrest⟩ := drainFrom_cons_next h
    obtain ⟨u, hrun, hblock, hstim, hresult⟩ := ih hrest
    have hstep := step_feeds hfeed bs rest
    refine ⟨u, (runSteps_next hstep).trans hrun, hblock, hstim, ?_⟩
    rw [hresult, List.length_cons, emissions_next hstep, List.append_assoc]
    rfl

/-- Settles O25: a DRAIN completes, and its FEED steps keep beside it. -/
theorem drainIsConsecutiveFeeds : Obligations.DrainIsConsecutiveFeeds := by
  intro bytes s rest hs
  obtain ⟨t, hexec⟩ := exec_completes (.drain bytes) hs
  have hdrain := (execDrain_next.mp hexec).2
  obtain ⟨u, hrun, hblock, hstim, hresult⟩ := drainFrom_runs_feeds rest hdrain
  exact ⟨t, u, hexec, hrun, hblock, hstim, hresult, drainFrom_keeps_chIdx hdrain, exec_stimulus hexec⟩

/-! ## How many frames a DRAIN yields (R100) -/

/-- With `cnt` as the bytes in hand, a byte adds at most one to them and an emitted frame uses up 25. -/
theorem feedByte_uses_25_bytes_per_frame {b : Byte} {s t : State} (h : feedByte b s = .next t) :
    25 * (emitted t.result).length + t.cnt.toNat ≤ s.cnt.toNat + 1 := by
  rcases feedByte_quiet_or_latches h with ⟨-, -, -, hnone⟩ | ⟨h24, -, rfl⟩
  · simpa [hnone] using (feedByte_cnt_le h).1
  · simp [latchCandidate_eq, h24]

theorem drainFrom_uses_25_bytes_per_frame {bytes : List Byte} {out : List Frame} {s t : State}
    (h : drainFrom bytes out s = .next t) :
    ∃ fs, t.result = .frames (out ++ fs) ∧ 25 * fs.length + t.cnt.toNat ≤ s.cnt.toNat + bytes.length := by
  induction bytes generalizing out s with
  | nil => cases h; exact ⟨[], by simp, by simp⟩
  | cons b bs ih =>
    obtain ⟨u, hfeed, hrest⟩ := drainFrom_cons_next h
    obtain ⟨fs, hresult, hcount⟩ := ih hrest
    have hfirst := feedByte_uses_25_bytes_per_frame hfeed
    refine ⟨emitted u.result ++ fs, by rw [hresult, List.append_assoc], ?_⟩
    rw [List.length_append, List.length_cons]
    omega

/-- Settles O26: at most 24 bytes are in hand when a DRAIN begins, and none in Idle. -/
theorem drainYieldsAtMostOneFramePer25Bytes : Obligations.DrainYieldsAtMostOneFramePer25Bytes := by
  intro bytes s t h
  obtain ⟨hs, hdrain⟩ := execDrain_next.mp h
  obtain ⟨fs, hresult, hcount⟩ := drainFrom_uses_25_bytes_per_frame hdrain
  refine ⟨fs, hresult, by omega, fun h0 => ?_⟩
  have hidle := cnt_toNat_of_idle h0
  omega

/-! ## DRAINs one after the other (R100) -/

theorem feedByte_setResult (b : Byte) (s : State) (r : Result) : feedByte b (s.setResult r) = feedByte b s := by
  refine (feedByte_reads_no_input b s s.stimulus r s.chIdx s.frameStrobe).trans ?_
  rcases h : feedByte b s with t | e | e
  · obtain ⟨hidx, hstim⟩ := feedByte_keeps_inputs h
    simp only [← hidx, ← hstim]
  · rfl
  · rfl

theorem drainFrom_setResult (bytes : List Byte) (out : List Frame) (s : State) (r : Result) :
    drainFrom bytes out (s.setResult r) = drainFrom bytes out s := by
  cases bytes with
  | nil => rfl
  | cons b bs => simp only [drainFrom, feedByte_setResult]

/-- A DRAIN of more bytes goes on from the state and the frames that a DRAIN of the first of them gives. -/
theorem drainFrom_append {xs ys : List Byte} {out fs : List Frame} {s u : State} (h : drainFrom xs out s = .next u)
    (hu : u.result = .frames fs) : drainFrom (xs ++ ys) out s = drainFrom ys fs u := by
  induction xs generalizing out s with
  | nil => cases h; cases hu; exact (drainFrom_setResult ys fs s _).symm
  | cons x xs ih =>
    obtain ⟨v, hfeed, hrest⟩ := drainFrom_cons_next h
    exact (drainFrom_cons hfeed).trans (ih hrest)

theorem exec_drain_append {xs : List Byte} {s u : State} (h : exec (.drain xs) s = .next u) (hu : u.result = .frames [])
    (ys : List Byte) : exec (.drain (xs ++ ys)) s = exec (.drain ys) u := by
  obtain ⟨hs, hdrain⟩ := execDrain_next.mp h
  calc exec (.drain (xs ++ ys)) s
      = drainFrom (xs ++ ys) [] s := whenCounterInRange_of_le hs _
    _ = drainFrom ys [] u := drainFrom_append hdrain hu
    _ = exec (.drain ys) u := (whenCounterInRange_of_le (counterInRange_kept.of_exec hs h) _).symm

/-- A DRAIN of one byte is its FEED, with the frame it emits listed. -/
theorem exec_drain_singleton {b : Byte} {s t : State} (h : feedByte b s = .next t) :
    exec (.drain [b]) s = .next (t.setResult (.frames (emitted t.result))) :=
  execDrain_next.mpr ⟨(whenCounterInRange_next.mp h).1, drainFrom_cons h⟩

/-! ## A whole frame fed from Idle (R101, R102) -/

/-- `u` is `s` after the first 24 bytes of `f` were collected with nothing emitted: its 25th completes the candidate `f`. -/
structure AwaitsLastByte (f : Frame) (s u : State) : Prop where
  result : u.result = .frames []
  cnt : u.cnt.toNat = 24
  frame : u.frame = s.frame
  frameValid : u.frameValid = s.frameValid
  candidate : candidate f[24] u = f

theorem take_24_eq_cons (f : Frame) : f.toList.take 24 = f[0] :: (f.toList.take 24).tail := by
  refine (List.cons_head?_tail ?_).symm
  simp [List.head?_eq_getElem?]

theorem toList_eq_take_24_append (f : Frame) : f.toList = f.toList.take 24 ++ [f[24]] := by
  conv_lhs => rw [← List.take_append_drop 24 f.toList]
  simp [List.drop_eq_getElem_cons]

theorem candidate_eq_of_take_24 {f : Frame} {s : State} (h : s.buf.toList.take 24 = f.toList.take 24) :
    candidate f[24] s = f := by
  refine Vector.toList_inj.mp ?_
  calc (s.buf.set 24 f[24]).toList
      = s.buf.toList.take 24 ++ [f[24]] := by simp [Vector.toList_set, List.set_eq_take_append_cons_drop]
    _ = f.toList := by rw [h, ← toList_eq_take_24_append]

/-- From Idle, a frame with its start marker is collected up to its last byte. -/
theorem exec_drain_take_24 {f : Frame} {s : State} (hstart : f[0] = Config.startMarker) (hidle : s.cnt = 0) :
    ∃ u, exec (.drain (f.toList.take 24)) s = .next u ∧ AwaitsLastByte f s u := by
  have hcons : f.toList.take 24 = Config.startMarker :: (f.toList.take 24).tail := hstart ▸ take_24_eq_cons f
  have hlen : (f.toList.take 24).tail.length = 23 := by simp
  obtain ⟨u, hexec, hcnt, hresult, hframe, hvalid, hbuf, -⟩ :=
    candidateCollectsInArrivalOrder (f.toList.take 24).tail s hidle (le_of_eq hlen)
  rw [hlen] at hcnt hbuf
  exact ⟨u, hcons ▸ hexec, hresult, hcnt, hframe, hvalid, candidate_eq_of_take_24 (hbuf.trans hcons.symm)⟩

theorem exec_drain_validFrame {f : Frame} {s : State} (hf : ValidFrame f) (hidle : s.cnt = 0) :
    ∃ t, exec (.drain f.toList) s = .next t ∧ t.result = .frames [f] ∧ t.cnt = 0 ∧ t.frame = f ∧
      t.frameValid = true ∧ t.frameStrobe = true := by
  obtain ⟨hstart, hend⟩ := hf
  obtain ⟨u, hexec, hu⟩ := exec_drain_take_24 hstart hidle
  have hcandidate : candidate Config.endMarker u = f := hend ▸ hu.candidate
  have hlast := exec_drain_singleton (feedByte_endMarker hu.cnt)
  rw [toList_eq_take_24_append, exec_drain_append hexec hu.result, hend, hlast]
  exact ⟨_, rfl, by simp [latchCandidate_eq, hcandidate], rfl, hcandidate, rfl, rfl⟩

theorem exec_drain_corruptFrame {f : Frame} {s : State} (hstart : f[0] = Config.startMarker)
    (hend : f[24] ≠ Config.endMarker) (hidle : s.cnt = 0) :
    ∃ t, exec (.drain f.toList) s = .next t ∧ t.result = .frames [] ∧ t.cnt = 0 ∧ t.frame = s.frame ∧
      t.frameValid = s.frameValid := by
  obtain ⟨u, hexec, hu⟩ := exec_drain_take_24 hstart hidle
  have hlast := exec_drain_singleton (feedByte_discard hu.cnt hend)
  rw [toList_eq_take_24_append, exec_drain_append hexec hu.result, hlast]
  exact ⟨_, rfl, rfl, rfl, hu.frame, hu.frameValid⟩

/-- Settles O28: the first 24 bytes are collected, and the last one latches them. -/
theorem validFrameRoundTrips : Obligations.ValidFrameRoundTrips := by
  intro f s hf hidle
  obtain ⟨u, hexec, hu⟩ := exec_drain_take_24 hf.1 hidle
  exact ⟨⟨u, hexec, hu.result, BitVec.eq_of_toNat_eq hu.cnt⟩, exec_drain_validFrame hf hidle⟩

/-- Settles O29: the discarded candidate leaves the assembler in Idle, where the next frame is fed. -/
theorem corruptFrameIsDiscarded : Obligations.CorruptFrameIsDiscarded := by
  intro f s hstart hend hidle
  refine ⟨exec_drain_corruptFrame hstart hend hidle, fun g hg => ?_⟩
  obtain ⟨u, hexec, hresult, hcnt, -, -⟩ := exec_drain_corruptFrame hstart hend hidle
  obtain ⟨t, ht, hframes, -, hframe, -, -⟩ := exec_drain_validFrame hg hcnt
  exact ⟨t, (exec_drain_append hexec hresult _).trans ht, hframes, hframe⟩

/-! ## Noise before a frame (R103, R104) -/

theorem drainFrom_skips {noise : List Byte} (hnoise : ∀ b ∈ noise, b ≠ Config.startMarker) (out : List Frame) {s : State}
    (hidle : s.cnt = 0) : ∃ t, drainFrom noise out s = .next t ∧ t.result = .frames out ∧ t.cnt = 0 := by
  induction noise generalizing s with
  | nil => exact ⟨_, drainFrom_nil out s, rfl, hidle⟩
  | cons b bs ih =>
    obtain ⟨hb, hbs⟩ := List.forall_mem_cons.mp hnoise
    rw [drainFrom_cons (feedByte_skip (cnt_toNat_of_idle hidle) hb)]
    simpa [quietEdge_eq] using ih hbs (s := quietEdge s) hidle

/-- A frame `g` that has the first 24 bytes of `f` behind its byte 0 is that byte and those 24. -/
theorem cons_take_24_eq_toList {f g : Frame} (h : ∀ k : Fin 24, g[k.val + 1] = f[k.val]) :
    g[0] :: f.toList.take 24 = g.toList := by
  refine List.ext_getElem (by simp) fun i hi hg => ?_
  cases i with
  | zero => simp
  | succ i =>
    have hi25 : i + 1 < 25 := by simpa using hg
    simpa using (h ⟨i, by omega⟩).symm

/-- Settles O30: noise leaves Idle, and a noise start marker with the 24 bytes after it is a whole candidate of its own. -/
theorem leadingNoiseIsSkipped : Obligations.LeadingNoiseIsSkipped := by
  refine ⟨fun noise f s hnoise hf hidle => ?_, fun f g s hidle hstart hshift => ?_⟩
  · obtain ⟨u, hdrain, hresult, hcnt⟩ := drainFrom_skips hnoise [] hidle
    have hexec : exec (.drain noise) s = .next u := execDrain_next.mpr ⟨by rw [hidle]; decide, hdrain⟩
    obtain ⟨t, ht, hframes, hcnt', hframe, -, -⟩ := exec_drain_validFrame hf hcnt
    exact ⟨t, (exec_drain_append hexec hresult _).trans ht, hframes, hframe, hcnt'⟩
  · have hbytes : 0x0F :: f.toList.take 24 = g.toList := hstart ▸ cons_take_24_eq_toList hshift
    have hlast : g[24] = f[23] := hshift 23
    rw [hbytes]
    split
    next hend =>
      obtain ⟨t, ht, hframes, hcnt, -⟩ := exec_drain_validFrame ⟨hstart, hlast.trans hend⟩ hidle
      exact ⟨t, ht, hcnt, hframes⟩
    next hend =>
      obtain ⟨t, ht, hframes, hcnt, -⟩ := exec_drain_corruptFrame hstart (hlast ▸ hend) hidle
      exact ⟨t, ht, hcnt, hframes⟩

end Sys2Proof.Machine
end

section
/-! The channel decoder (41_channel_decoder.md R110 to R125): where a channel's bits stand in a frame, the value of SCALE, and
the two read paths. -/

namespace Sys2Proof.Machine

/-! ## The index out of range (R115, R141) -/

theorem chRaw_outOfRange {s : State} (h : 15 < s.chIdx.toNat) : s.chRaw = 0x000 := by
  simp only [State.chRaw, channelOf_outOfRange h]

theorem chErr_iff (s : State) : s.chErr = true ↔ 15 < s.chIdx.toNat := decide_eq_true_iff

/-- GET_CHANNEL reads neither the earlier level on `ch_idx` nor the earlier result (R119). -/
theorem exec_getChannel_after_read (j i : IndexWord) (r : Result) (s : State) :
    exec (.getChannel j) ((s.setChIdx i).setResult r) = exec (.getChannel j) s := rfl

/-- Settles O34: the error stands on the level `ch_idx` and in the result, neither of which a later GET_CHANNEL reads. -/
theorem outOfRangeIndexShowsTheError : Obligations.OutOfRangeIndexShowsTheError := by
  refine ⟨fun i s hs hi => ⟨?_, (chErr_iff (s.setChIdx i)).mpr hi, chRaw_outOfRange (s := s.setChIdx i) hi, rfl⟩, chErr_iff,
    fun i j s t u ht hu => ?_⟩
  · rw [exec_getChannel_outOfRange (channelOf_outOfRange hi), whenCounterInRange_of_le hs]
    rfl
  · obtain ⟨r, hread⟩ := exec_getChannel i s
    obtain ⟨-, hnext⟩ := whenCounterInRange_next.mp (hread.symm.trans ht)
    rw [← exec_getChannel_after_read j i r s, Host.Outcome.next.inj hnext]
    exact hu

/-! ## The bytes of a channel's field (R112 to R114) -/

/-- Settles O36, by evaluation of the sixteen rows. -/
theorem channelTable : Obligations.ChannelTable := by
  unfold Obligations.ChannelTable
  decide

/-- Settles O38: the field's 11 bits stand in the minimal span, and in every longer one at the same place. -/
theorem anyCoveringSpanGivesTheSameChannel : Obligations.AnyCoveringSpanGivesTheSameChannel := by
  intro f i n h hn
  refine BitVec.eq_of_getLsbD_eq fun t ht => ?_
  have hspan := field_in_span i
  rw [unpack, fieldOf_getLsbD _ _ ht, fieldOf_getLsbD _ _ ht, spanValue_testBit _ _ _ _ _ (by omega),
    spanValue_testBit _ _ _ _ _ (by omega)]

/-- The mask of a number's low bits, moved below the `j` bits of `a` that stand under the number. -/
theorem and_mask_of_shiftLeft_or {a j : Nat} (ha : a < 2 ^ j) (x m : Nat) :
    (x <<< j ||| a) &&& (2 ^ (j + m) - 1) = (x &&& (2 ^ m - 1)) <<< j ||| a := by
  rw [Nat.and_two_pow_sub_one_eq_mod, Nat.and_two_pow_sub_one_eq_mod, Nat.shiftLeft_eq, Nat.shiftLeft_eq, Nat.mul_comm x,
    Nat.mul_comm (x % _), ← Nat.two_pow_add_eq_or_of_lt ha, ← Nat.two_pow_add_eq_or_of_lt ha, Nat.pow_add, Nat.mod_mul,
    Nat.mul_add_mod_self_left, Nat.mod_eq_of_lt ha, Nat.mul_add_div (Nat.two_pow_pos j), Nat.div_eq_of_lt ha, Nat.add_zero,
    Nat.add_comm]

/-- The field at shift `sh` of a span is the first byte's high bits, below the low `3 + sh` bits of the bytes after it. -/
theorem fieldOf_spanValue_succ (f : Frame) {n k sh : Nat} (h : k + (n + 1) ≤ 25) (hsh : sh < 8) :
    (fieldOf (spanValue f (n + 1) k h) sh).toNat =
      f[k].toNat >>> sh ||| (spanValue f n (k + 1) (by omega) &&& (2 ^ (3 + sh) - 1)) <<< (8 - sh) := by
  have hhigh : f[k].toNat >>> sh < 2 ^ (8 - sh) := by
    rw [Nat.shiftRight_eq_div_pow, Nat.div_lt_iff_lt_mul (Nat.two_pow_pos sh), ← Nat.pow_add, Nat.sub_add_cancel hsh.le]
    exact f[k].isLt
  have hmask : Config.chMask = 2 ^ (8 - sh + (3 + sh)) - 1 := by
    rw [show 8 - sh + (3 + sh) = 11 by omega]; rfl
  have hfits : ∀ x, x &&& Config.chMask < 2 ^ 11 := fun x => Nat.lt_succ_of_le Nat.and_le_right
  have hmove : ∀ x, x <<< 8 >>> sh = x <<< (8 - sh) := fun x => by
    conv_lhs => rw [← Nat.sub_add_cancel hsh.le, Nat.shiftLeft_add, Nat.shiftLeft_shiftRight]
  rw [fieldOf, BitVec.toNat_ofNat, Nat.mod_eq_of_lt (hfits _), spanValue, Nat.shiftRight_or_distrib, hmove, hmask,
    and_mask_of_shiftLeft_or hhigh, Nat.or_comm]

/-- A field of two bytes: the high bits of the first below the low `3 + sh` bits of the second. -/
theorem fieldOf_two_bytes (f : Frame) {k sh : Nat} (h : k + 2 ≤ 25) (hsh : sh < 8) :
    (fieldOf (spanValue f 2 k h) sh).toNat = f[k].toNat >>> sh ||| (f[k + 1].toNat &&& (2 ^ (3 + sh) - 1)) <<< (8 - sh) := by
  rw [fieldOf_spanValue_succ f h hsh]
  simp [spanValue]

/-- A field of three bytes: the whole second byte stands between the first's high bits and the third's low bits. -/
theorem fieldOf_three_bytes (f : Frame) {k m : Nat} (h : k + 3 ≤ 25) (hm : m < 3) :
    (fieldOf (spanValue f 3 k h) (5 + m)).toNat =
      f[k].toNat >>> (5 + m) ||| f[k + 1].toNat <<< (3 - m) ||| (f[k + 2].toNat &&& (2 ^ m - 1)) <<< (11 - m) := by
  have hmove : 11 - m = 8 + (3 - m) := by omega
  rw [fieldOf_spanValue_succ f h (by omega), ← Nat.add_assoc, spanValue, and_mask_of_shiftLeft_or f[k + 1].isLt,
    Nat.shiftLeft_or_distrib, ← Nat.shiftLeft_add, Nat.or_assoc, Nat.or_comm (f[k + 1].toNat <<< _), hmove,
    Nat.sub_add_eq 8 5 m]
  simp [spanValue]

/-- At shift 5 the mask keeps the whole second byte. -/
theorem fieldOf_two_bytes_whole (f : Frame) {k : Nat} (h : k + 2 ≤ 25) :
    (fieldOf (spanValue f 2 k h) 5).toNat = f[k].toNat >>> 5 ||| f[k + 1].toNat <<< 3 := by
  rw [fieldOf_two_bytes f h (by decide), Nat.and_two_pow_sub_one_of_lt_two_pow f[k + 1].isLt]

/-- Settles O37: each channel is a field of two or three bytes at the first byte and the shift of R112. -/
theorem channelClosedForms : Obligations.ChannelClosedForms := by
  intro f
  refine ⟨?_, ?_, ?_, ?_, ?_, ?_, ?_, ?_, ?_, ?_, ?_, ?_, ?_, ?_, ?_, ?_⟩
  · exact fieldOf_two_bytes f (k := 1) (sh := 0) (by decide) (by decide)
  · exact fieldOf_two_bytes f (k := 2) (sh := 3) (by decide) (by decide)
  · exact fieldOf_three_bytes f (k := 3) (m := 1) (by decide) (by decide)
  · exact fieldOf_two_bytes f (k := 5) (sh := 1) (by decide) (by decide)
  · exact fieldOf_two_bytes f (k := 6) (sh := 4) (by decide) (by decide)
  · exact fieldOf_three_bytes f (k := 7) (m := 2) (by decide) (by decide)
  · exact fieldOf_two_bytes f (k := 9) (sh := 2) (by decide) (by decide)
  · exact fieldOf_two_bytes_whole f (k := 10) (by decide)
  · exact fieldOf_two_bytes f (k := 12) (sh := 0) (by decide) (by decide)
  · exact fieldOf_two_bytes f (k := 13) (sh := 3) (by decide) (by decide)
  · exact fieldOf_three_bytes f (k := 14) (m := 1) (by decide) (by decide)
  · exact fieldOf_two_bytes f (k := 16) (sh := 1) (by decide) (by decide)
  · exact fieldOf_two_bytes f (k := 17) (sh := 4) (by decide) (by decide)
  · exact fieldOf_three_bytes f (k := 18) (m := 2) (by decide) (by decide)
  · exact fieldOf_two_bytes f (k := 20) (sh := 2) (by decide) (by decide)
  · exact fieldOf_two_bytes_whole f (k := 21) (by decide)

/-! ## What a channel depends on (R117, R118) -/

/-- Bit t of channel i is payload bit `11i + t` (R110, R113). -/
theorem unpack_getLsbD_eq_payloadBit (f : Frame) (i : ChannelIndex) {t : Nat} (ht : t < 11) :
    (unpack f i).getLsbD t = payloadBit f ⟨11 * i.val + t, by omega⟩ := by
  have hbyte : (8 + 11 * i.val + t) / 8 = 1 + (11 * i.val + t) / 8 := by omega
  have hbit : (8 + 11 * i.val + t) % 8 = (11 * i.val + t) % 8 := by omega
  rw [unpack_getLsbD f i ht]
  simp only [payloadBit, hbyte, hbit]

theorem unpack_congr {f g : Frame} {i : ChannelIndex}
    (h : ∀ q : Fin 176, 11 * i.val ≤ q.val → q.val ≤ 11 * i.val + 10 → payloadBit f q = payloadBit g q) :
    unpack f i = unpack g i := by
  refine BitVec.eq_of_getLsbD_eq fun t ht => ?_
  rw [unpack_getLsbD_eq_payloadBit f i ht, unpack_getLsbD_eq_payloadBit g i ht]
  exact h _ (Nat.le_add_right _ _) (Nat.add_le_add_left (Nat.le_of_lt_succ ht) _)

/-- The payload stands in bytes 1 to 22 (R53). -/
theorem payloadBit_congr {f g : Frame} (h : ∀ k : Position, 1 ≤ k.val → k.val ≤ 22 → f[k] = g[k]) (q : Fin 176) :
    payloadBit f q = payloadBit g q :=
  congrArg (BitVec.getLsbD · (q.val % 8)) (h ⟨1 + q.val / 8, by omega⟩ (Nat.le_add_right _ _) (by simp only; omega))

/-- Settles O39: a channel is read from its payload bits, and the payload from bytes 1 to 22. -/
theorem channelDependsOnlyOnItsField : Obligations.ChannelDependsOnlyOnItsField := by
  refine ⟨fun f g i h => unpack_congr h, fun f g h => ?_⟩
  have hunpack : unpack f = unpack g := funext fun i => unpack_congr fun q _ _ => payloadBit_congr h q
  exact ⟨congrFun hunpack, by rw [pulsesOf, pulsesOf, hunpack]⟩

/-! ## SCALE (R120 to R123) -/

/-- SCALE on integers at this block's parameters (R120). -/
theorem scaleInt_default (raw : Int) : scaleInt Config.scale raw = (raw - 1024) * 5 / 8 + 1520 := by
  rw [scaleInt, scaleShift_of_floor rfl]
  rfl

/-- The unsigned form of SCALE (R122): `1520 - 5 * 1024 / 8 = 880`, and the division by 8 is exact there. -/
theorem scaleInt_eq_unsigned (raw : Nat) : scaleInt Config.scale raw = (880 + 5 * raw / 8 : Nat) := by
  rw [scaleInt_default]
  omega

/-- The 12 bits of a pulse hold the whole result (R121). -/
theorem scale_toNat (raw : Raw) : (scale raw).toNat = 880 + 5 * raw.toNat / 8 := by
  rw [scale, scaleInt_eq_unsigned, BitVec.ofInt_natCast, BitVec.toNat_ofNat]
  omega

theorem exec_scale (raw : Raw) (s : State) :
    exec (.scale raw) s = s.whenCounterInRange (.next (s.setResult (.pulse (scale raw)))) := rfl

theorem exec_scale_result {raw : Raw} {s t : State} (h : exec (.scale raw) s = .next t) :
    t.result = .pulse (scale raw) := by
  obtain ⟨-, hnext⟩ := whenCounterInRange_next.mp ((exec_scale raw s).symm.trans h)
  rw [← Host.Outcome.next.inj hnext, setResult_result]

/-- Settles O40: the guard passes, and the pulse is the integer result. -/
theorem scaleGivesThePulseLength : Obligations.ScaleGivesThePulseLength := by
  intro raw s hs
  refine ⟨scale raw, (exec_scale raw s).trans (whenCounterInRange_of_le hs _), ?_⟩
  rw [scale_toNat, ← scaleInt_eq_unsigned, scaleInt_default, Int.fdiv_eq_ediv_of_nonneg _ (by decide)]

/-- Settles O41: the bounds of each intermediate follow from `raw < 2048`. -/
theorem scaleStaysInRange : Obligations.ScaleStaysInRange := by
  rintro raw d m q hd hm rfl
  have hraw := raw.isLt
  have hshift : scaleShift Config.scale m = m / 8 := scaleShift_of_floor rfl m
  have hint := scaleInt_default raw.toNat
  have hpulse := scale_toNat raw
  omega

/-- Settles O42: the shift by 3 is the division by 8 of `scale_toNat`. -/
theorem scaleUnsignedForm : Obligations.ScaleUnsignedForm := by
  intro raw s t h
  have hvalue : 880 + (5 * raw.toNat) >>> 3 = (scale raw).toNat := by
    rw [scale_toNat, Nat.shiftRight_eq_div_pow]
  rw [hvalue, BitVec.ofNat_toNat, BitVec.setWidth_eq]
  exact ⟨exec_scale_result h, (scale raw).isLt⟩

theorem fiveEighths_add_period (q k : Nat) : 5 * (8 * q + k) / 8 = 5 * q + 5 * k / 8 := by
  omega

/-- The increments of `5n / 8` depend on `n % 8` alone (R123). -/
theorem fiveEighths_succ (n : Nat) : 5 * (n + 1) / 8 = 5 * n / 8 + [0, 1, 0, 1, 1, 0, 1, 1].getD (n % 8) 0 := by
  have hperiod : ∀ k < 8, 5 * (k + 1) / 8 = 5 * k / 8 + [0, 1, 0, 1, 1, 0, 1, 1].getD k 0 := by decide
  calc 5 * (n + 1) / 8
      = 5 * (8 * (n / 8) + (n % 8 + 1)) / 8 := by rw [← Nat.add_assoc, Nat.div_add_mod]
    _ = 5 * (n / 8) + 5 * (n % 8) / 8 + [0, 1, 0, 1, 1, 0, 1, 1].getD (n % 8) 0 := by
        rw [fiveEighths_add_period, hperiod _ (Nat.mod_lt n (by decide)), Nat.add_assoc]
    _ = 5 * n / 8 + [0, 1, 0, 1, 1, 0, 1, 1].getD (n % 8) 0 := by
        rw [← fiveEighths_add_period, Nat.div_add_mod]

/-- Settles O43: the three clauses are those of `5 raw / 8`. -/
theorem scaleShape : Obligations.ScaleShape := by
  intro r r' s s' t t' p p' h h' hp hp'
  obtain rfl : scale r = p := Result.pulse.inj ((exec_scale_result h).symm.trans hp)
  obtain rfl : scale r' = p' := Result.pulse.inj ((exec_scale_result h').symm.trans hp')
  rw [scale_toNat, scale_toNat]
  refine ⟨fun hle => by omega, fun hperiod => by omega, fun hsucc => ?_⟩
  rw [hsucc, fiveEighths_succ, Nat.add_assoc]

/-! ## The two read paths (R116, R124, R125) -/

theorem exec_getChannels (s : State) :
    exec .getChannels s = s.whenCounterInRange (.next (s.setResult (.pulses (pulsesOf s.frame)))) := rfl

/-- Settles O46: the lanes of the result and of `pulse_out` are the same pulses of `frame`. -/
theorem getChannelsScalesEveryChannel : Obligations.GetChannelsScalesEveryChannel := by
  intro s hs
  refine ⟨pulsesOf s.frame, (exec_getChannels s).trans (whenCounterInRange_of_le hs _), fun i => ⟨pulsesOf_get s.frame i, ?_,
    fun _ => rfl⟩⟩
  rw [pulseOut_lane, pulsesOf_get]

/-- Settles O47: both paths unpack the channel from `frame`. -/
theorem bothReadPathsAgree : Obligations.BothReadPathsAgree := by
  intro s i hi
  have hi16 : i.toNat < 16 := Nat.lt_succ_of_le hi
  have hraw : State.chRaw { s with chIdx := i } = unpack s.frame ⟨i.toNat, hi16⟩ := chRaw_inRange (s := s.setChIdx i) hi16
  rw [hraw]
  exact pulseOut_lane s ⟨i.toNat, hi16⟩

/-- Settles O50: the three outputs are functions of `frame` and `ch_idx` alone. -/
theorem decoderIgnoresFrameValid : Obligations.DecoderIgnoresFrameValid :=
  fun _ _ => ⟨rfl, rfl, rfl⟩

end Sys2Proof.Machine
end

section
/-! RESET beside a presented byte (60_exceptions.md R145). -/

namespace Sys2Proof.Machine

/-- Settles O13: a word with R set is a RESET whatever V and B are, and the reset edge writes no byte of `buf`. -/
theorem resetWinsOverAPresentedByte : Obligations.ResetWinsOverAPresentedByte := by
  intro s b rest
  have hr : stepR (encodeStep true true b) = true := stepR_encodeStep true true b
  calc step (s.setStimulus (.stepWord (encodeStep true true b) :: rest))
      = exec (decodeStep (encodeStep true true b)) (s.setStimulus rest) := step_head s _ rest
    _ = .next (resetEdge (s.setStimulus rest)) := exec_decodeStep_reset hr _

end Sys2Proof.Machine
end

section
/-! RESET held for several edges (70_reset_and_hazards.md R160), and the frame register through the copy-out window (R166). -/

namespace Sys2Proof.Machine

/-! ## Held reset (R160) -/

theorem step_reset {w : StepWord} {rest : List Stimulus} {s : State} (hr : stepR w = true)
    (hstim : s.stimulus = .stepWord w :: rest) : step s = .next (resetEdge (s.setStimulus rest)) :=
  (step_cons hstim).trans (exec_decodeStep_reset hr _)

/-- RESET writes constants only: a reset edge in the reset state takes its word and changes nothing else. -/
theorem step_reset_resetEdge {w : StepWord} (hr : stepR w = true) (rest : List Stimulus) (s : State) :
    step (resetEdge (s.setStimulus (.stepWord w :: rest))) = .next (resetEdge (s.setStimulus rest)) :=
  step_reset hr rfl

theorem runSteps_resets_resetEdge {ws : List StepWord} (hr : ∀ w ∈ ws, stepR w = true) (s : State) :
    runSteps ws.length (resetEdge (s.setStimulus (ws.map .stepWord))) = .next (resetEdge (s.setStimulus [])) := by
  induction ws with
  | nil => rfl
  | cons w ws ih =>
    obtain ⟨hw, hws⟩ := List.forall_mem_cons.mp hr
    rw [List.length_cons, List.map_cons, runSteps_next (step_reset_resetEdge hw _ s)]
    exact ih hws

/-- Settles O11: the first edge gives the reset state, and the further ones keep it. -/
theorem heldResetGivesTheResetState : Obligations.HeldResetGivesTheResetState := by
  intro s w ws hmask
  have hr : ∀ x ∈ w :: ws, stepR x = true := fun x hx => (resetMatch_iff x).mp (hmask x hx)
  obtain ⟨hw, hws⟩ := List.forall_mem_cons.mp hr
  calc runSteps (ws.length + 1) (s.setStimulus ((w :: ws).map .stepWord))
      = runSteps ws.length (resetEdge (s.setStimulus (ws.map .stepWord))) := runSteps_next (step_reset hw rfl)
    _ = .next (resetEdge (s.setStimulus [])) := runSteps_resets_resetEdge hws s

/-! ## The copy-out window (R166) -/

/-- Only RESET and the 25th byte of a candidate write the frame register. -/
theorem step_keeps_frame {w : StepWord} {rest : List Stimulus} {s t : State} (hr : stepR w = false)
    (hs : s.cnt.toNat < 24) (hstim : s.stimulus = .stepWord w :: rest) (h : step s = .next t) :
    t.frame = s.frame ∧ t.frameValid = s.frameValid := by
  rcases edge_frame ((step_cons hstim).symm.trans h) with hkept | ⟨hreset, -, -⟩ | ⟨-, h24, -, -⟩
  · exact hkept
  · simp [hr] at hreset
  · exact absurd h24 (Nat.ne_of_lt hs)

/-- Edges too few to complete a candidate, with no RESET among them, keep the frame register. -/
theorem runSteps_keeps_frame (ws : List StepWord) {s : State} (hr : ∀ w ∈ ws, stepR w = false)
    (hstim : s.stimulus = ws.map .stepWord) (hs : s.cnt.toNat + ws.length ≤ 24) :
    ∃ t, runSteps ws.length s = .next t ∧ t.frame = s.frame ∧ t.frameValid = s.frameValid := by
  induction ws generalizing s with
  | nil => exact ⟨s, rfl, rfl, rfl⟩
  | cons w ws ih =>
    obtain ⟨hw, hws⟩ := List.forall_mem_cons.mp hr
    rw [List.length_cons] at hs
    have hlt : s.cnt.toNat < 24 := by omega
    obtain ⟨u, hu, -, hcnt, hrest⟩ := step_beforeLast hstim hlt
    obtain ⟨hframe, hvalid⟩ := step_keeps_frame hw hlt hstim hu
    rw [List.length_cons, runSteps_next hu, ← hframe, ← hvalid]
    exact ih hws hrest (by omega)

theorem frameOut_congr {s t : State} (h : t.frame = s.frame) : t.frameOut = s.frameOut := by
  rw [State.frameOut, State.frameOut, h]

theorem pulseOut_congr {s t : State} (h : t.frame = s.frame) : t.pulseOut = s.pulseOut := by
  rw [State.pulseOut, State.pulseOut, h]

/-- Settles O57: a strobe stands at `cnt = 0` with a valid frame, and 24 edges without RESET complete no candidate. -/
theorem latchedFrameStaysForItsCopyOutWindow : Obligations.LatchedFrameStaysForItsCopyOutWindow := by
  rintro s ws ⟨-, -, -, hstrobe⟩ hs h24 hr
  obtain ⟨hvalid, h0⟩ := hstrobe hs
  have hcnt : s.cnt.toNat + ws.length ≤ 24 := by simpa [h0] using h24
  obtain ⟨t, hrun, hframe, hvalid'⟩ := runSteps_keeps_frame ws (s := s.setStimulus (ws.map .stepWord))
    (fun w hw => stepR_eq_false_of_mask (hr w hw)) rfl hcnt
  exact ⟨t, hrun, hframe, hvalid'.trans hvalid, frameOut_congr hframe, pulseOut_congr hframe⟩

end Sys2Proof.Machine
end
